-- ==== Sys2Proof/Word.lean ====
section
/-! DEFINITION. The block's words: bytes, host command words and eight-byte frames (spec 00 R9, R10; 30 R60, R70). -/

namespace Sys2Proof

/-- A byte, unsigned 0..255 unless a rule says signed (00 R9). -/
abbrev Byte := BitVec 8

/-- The host command word of the CMD port (30 R70). -/
abbrev CmdWord := BitVec 16

/-- A frame: exactly eight bytes, `b0` first on the wire (00 R10, 20 R41, 30 R60). -/
structure Frame where
  b0 : Byte
  b1 : Byte
  b2 : Byte
  b3 : Byte
  b4 : Byte
  b5 : Byte
  b6 : Byte
  b7 : Byte
  deriving DecidableEq, Repr, Inhabited

end Sys2Proof
end

