-- ==== Sys2Proof/Config.lean ====
section
/-! DEFINITION. What is fixed for one block instance (00 R7, 10 R21), and the free values that stand for what the spec
leaves unspecified. -/

namespace Sys2Proof

/-- CHECKSUM_RULE (00 R7; 30 R62, R63). -/
inductive ChecksumRule where
  /-- The mod-256 sum of bytes 0..6 equals byte 7 (30 R62); the spec value. -/
  | mod256
  /-- The exact sum of the signed bytes 0..6 equals the signed byte 7 (30 R63). -/
  | signedWide
  deriving DecidableEq, Repr, Inhabited

/-- The construction-time parameters. A state carries them so that a statement over all states holds for every value
of each (log 2, DESIGN CHOICE, safe); no step writes them. -/
structure Params where
  /-- INBOUND_MARKER: spec value 0x34, alternative 0x22 (00 R7). -/
  inboundMarker : Byte
  /-- CHECKSUM_RULE: spec value MOD256 (00 R7). -/
  checksumRule : ChecksumRule
  /-- Whether a consumer is bound to the STATUS output (10 R21, 41 R108, 70 R143). -/
  observer : Bool
  deriving DecidableEq, Repr, Inhabited

/-- The parameters at their spec values (00 R7, 90 C1). The spec fixes no value for the observer binding: a bound
consumer is the model's choice (log 17, DESIGN CHOICE, unsafe). -/
def Params.spec : Params :=
  { inboundMarker := 0x34, checksumRule := .mod256, observer := true }

/-- The operation held in `cu_op` (10 R25). -/
inductive CuOp where
  | query
  | set
  | pulse
  deriving DecidableEq, Repr, Inhabited

/-- FREE VALUE (log 9, safe): what `rx_buf` holds after the n-th reset event (10 R34: unspecified). -/
opaque Config.freeRxBuf : Nat → Vector Byte 7

/-- FREE VALUE (log 9, safe): what `cu_op` holds after the n-th reset event (10 R34: unspecified). -/
opaque Config.freeCuOp : Nat → CuOp

/-- FREE VALUE (log 9, safe): what `cu_idx` holds after the n-th reset event (10 R34: unspecified). -/
opaque Config.freeCuIdx : Nat → BitVec 2

/-- FREE VALUE (log 9, safe): what `cu_frame` holds after the n-th reset event (10 R34: unspecified). -/
opaque Config.freeCuFrame : Nat → Frame

end Sys2Proof
end

