-- ==== Sys2Proof/Syntax.lean ====
section
/-! DEFINITION. The instructions: one constructor per row of spec/opcode_table.json. Fields that a rule ignores
(30 R72) stay in the syntax, so that no bit of an encoding is lost. -/

namespace Sys2Proof

/-- The desired state of a set command (00 glossary, 30 R71). -/
inductive Desired where
  /-- D = 1: an open-request, operand byte 0x02. -/
  | openReq
  /-- D = 0: a closed-request, operand byte 0x01. -/
  | closedReq
  deriving DecidableEq, Repr, Inhabited

/-- What the block executes. The first four are host command words, `rxByte` and `frameStatus` arrive on the RX
port, the six outbound frames leave on the TX port. -/
inductive Instr where
  /-- QUERY (40 R82): IDX, RSV and D are ignored. -/
  | query (idx : Byte) (rsv : BitVec 5) (dBit : Bool)
  /-- SET (40 R83): IDX, RSV (ignored), D. -/
  | set (idx : Byte) (rsv : BitVec 5) (d : Desired)
  /-- PULSE (40 R84): IDX, RSV and D (both ignored). -/
  | pulse (idx : Byte) (rsv : BitVec 5) (dBit : Bool)
  /-- RSVD (40 R85): the reserved operation code; every other field is ignored. -/
  | rsvd (idx : Byte) (rsv : BitVec 5) (dBit : Bool)
  /-- RX_BYTE (41 R100 to R102): one inbound byte. -/
  | rxByte (b : Byte)
  /-- FRAME_QUERY (30 R64): the query frame goes out on the wire. -/
  | frameQuery
  /-- FRAME_SET_OPEN_0 (30 R65): the frame that requests relay 0 open goes out. -/
  | frameSetOpen0
  /-- FRAME_SET_OPEN_1 (30 R65). -/
  | frameSetOpen1
  /-- FRAME_SET_OPEN_2 (30 R65). -/
  | frameSetOpen2
  /-- FRAME_SET_OPEN_3 (30 R65). -/
  | frameSetOpen3
  /-- FRAME_SET_CLOSED (30 R65): the closed-request frame, the same for every relay. -/
  | frameSetClosed
  /-- FRAME_STATUS (30 R66, 41 R105): an inbound frame completes whose first byte is the inbound marker. -/
  | frameStatus (f : Frame)
  deriving DecidableEq, Repr

end Sys2Proof
end

