-- ==== Sys2Proof/WellFormed.lean ====
section
/-! DEFINITION. Which terms of Instr the encodings admit. The types bound every operand; the one check is the inbound
marker of a status frame, a construction-time parameter (30 R61, R66). -/

namespace Sys2Proof

/-- `i` is an instruction of a block with parameters `p`. -/
def Instr.wf (p : Params) : Instr → Bool
  | .query _ _ _ => true
  | .set _ _ _ => true
  | .pulse _ _ _ => true
  | .rsvd _ _ _ => true
  | .rxByte _ => true
  | .frameQuery => true
  | .frameSetOpen0 => true
  | .frameSetOpen1 => true
  | .frameSetOpen2 => true
  | .frameSetOpen3 => true
  | .frameSetClosed => true
  | .frameStatus f => f.b0 == p.inboundMarker

end Sys2Proof
end

