-- ==== Sys2Proof/Decode.lean ====
section
/-! DEFINITION. The decoder and the encoder. The block has three ports that carry encoded things: CMD (16-bit command
words), RX (inbound bytes) and TX (outbound frames); what a bit pattern means depends on its port (20 R40, 30 R70, R73,
R75). -/

namespace Sys2Proof

/-- The bytes of a frame in wire order, byte 0 first (20 R41; the order is the spec's own, from general knowledge:
log 12, PRESUMED, unsafe). -/
def Frame.bytes (f : Frame) : List Byte :=
  [f.b0, f.b1, f.b2, f.b3, f.b4, f.b5, f.b6, f.b7]

/-- A frame from the 64-bit notation of spec/opcode_table.json: B0 is the most significant byte (INDEX.md). -/
def Frame.ofBits (x : BitVec 64) : Frame :=
  { b0 := x.extractLsb' 56 8, b1 := x.extractLsb' 48 8, b2 := x.extractLsb' 40 8, b3 := x.extractLsb' 32 8
    b4 := x.extractLsb' 24 8, b5 := x.extractLsb' 16 8, b6 := x.extractLsb' 8 8, b7 := x.extractLsb' 0 8 }

/-- The 64-bit notation of a frame (INDEX.md). -/
def Frame.toBits (f : Frame) : BitVec 64 :=
  f.b0 ++ f.b1 ++ f.b2 ++ f.b3 ++ f.b4 ++ f.b5 ++ f.b6 ++ f.b7

/-- An encoded instruction on the port that carries it. -/
inductive Packet where
  /-- A command word presented on CMD (30 R70). -/
  | cmd (w : CmdWord)
  /-- A window of RX: the bytes of the current inbound frame up to the one now delivered, first byte first (30 R75). -/
  | rx (window : List Byte)
  /-- A whole frame going out on TX (40 R81). -/
  | tx (f : Frame)
  deriving DecidableEq, Repr

/-- Why a packet is no instruction. -/
inductive DecodeError where
  /-- An RX window with no byte, or with more than the eight of a frame (30 R60). -/
  | notAWindow
  /-- A TX frame that is none of the six outbound frames (30 R73: no other outbound frame exists). -/
  | notAnOutboundFrame
  deriving DecidableEq, Repr

/-- IDX, w[15:8] (30 R70). -/
def cmdIdx (w : CmdWord) : Byte := w.extractLsb' 8 8

/-- RSV, w[7:3] (30 R70). -/
def cmdRsv (w : CmdWord) : BitVec 5 := w.extractLsb' 3 5

/-- D, w[2] (30 R70). -/
def cmdD (w : CmdWord) : Bool := w.getLsbD 2

/-- OP, w[1:0] (30 R70). -/
def cmdOp (w : CmdWord) : BitVec 2 := w.extractLsb' 0 2

/-- The desired state that bit D asks for (30 R71). -/
def Desired.ofBit (d : Bool) : Desired := if d then .openReq else .closedReq

/-- Bit D for a desired state (30 R71). -/
def Desired.toBit : Desired → Bool
  | .openReq => true
  | .closedReq => false

/-- The meaning of a command word; every word has one (30 R70, R72; 40 R80). -/
def decodeCmd (w : CmdWord) : Instr :=
  if cmdOp w = 0 then .query (cmdIdx w) (cmdRsv w) (cmdD w)
  else if cmdOp w = 1 then .set (cmdIdx w) (cmdRsv w) (Desired.ofBit (cmdD w))
  else if cmdOp w = 2 then .pulse (cmdIdx w) (cmdRsv w) (cmdD w)
  else .rsvd (cmdIdx w) (cmdRsv w) (cmdD w)

/-- What the delivery of the last byte of a window is: with the eighth byte, a frame that begins with the inbound marker
is FRAME_STATUS; every other delivery is RX_BYTE (30 R75; log 6, DEDUCED, safe: both have the same effect, 41 R102). -/
def decodeRx (p : Params) : List Byte → Option Instr
  | [b0, b1, b2, b3, b4, b5, b6, b7] =>
    if b0 = p.inboundMarker then some (.frameStatus ⟨b0, b1, b2, b3, b4, b5, b6, b7⟩) else some (.rxByte b7)
  | window => if window.length < 8 then window.getLast?.map Instr.rxByte else none

/-- The outbound rows of spec/opcode_table.json, in its 64-bit notation. -/
def rowFrameQuery : Frame := Frame.ofBits 0x5501000000000056
def rowFrameSetOpen0 : Frame := Frame.ofBits 0x550101020101015C
def rowFrameSetOpen1 : Frame := Frame.ofBits 0x550101010201015C
def rowFrameSetOpen2 : Frame := Frame.ofBits 0x550101010102015C
def rowFrameSetOpen3 : Frame := Frame.ofBits 0x550101010101025C
def rowFrameSetClosed : Frame := Frame.ofBits 0x550101010101015B

/-- Which outbound row a frame is (30 R73, 40 R88). -/
def decodeTx (f : Frame) : Option Instr :=
  if f = rowFrameQuery then some .frameQuery
  else if f = rowFrameSetOpen0 then some .frameSetOpen0
  else if f = rowFrameSetOpen1 then some .frameSetOpen1
  else if f = rowFrameSetOpen2 then some .frameSetOpen2
  else if f = rowFrameSetOpen3 then some .frameSetOpen3
  else if f = rowFrameSetClosed then some .frameSetClosed
  else none

/-- The decoder, total on every packet: an instruction, or a rejection by name. -/
def decode (p : Params) : Packet → Except DecodeError Instr
  | .cmd w => .ok (decodeCmd w)
  | .rx window =>
    match decodeRx p window with
    | some i => .ok i
    | none => .error .notAWindow
  | .tx f =>
    match decodeTx f with
    | some i => .ok i
    | none => .error .notAnOutboundFrame

/-- A command word from its fields, IDX, RSV, D, OP from the most significant down (30 R70). -/
def cmdWord (idx : Byte) (rsv : BitVec 5) (d : Bool) (op : BitVec 2) : CmdWord :=
  idx ++ rsv ++ BitVec.ofBool d ++ op

/-- The encoder (30 R64, R65, R66, R70, R75). An RX_BYTE is encoded as the first byte of a frame. -/
def encode : Instr → Packet
  | .query idx rsv d => .cmd (cmdWord idx rsv d 0)
  | .set idx rsv d => .cmd (cmdWord idx rsv d.toBit 1)
  | .pulse idx rsv d => .cmd (cmdWord idx rsv d 2)
  | .rsvd idx rsv d => .cmd (cmdWord idx rsv d 3)
  | .rxByte b => .rx [b]
  | .frameQuery => .tx rowFrameQuery
  | .frameSetOpen0 => .tx rowFrameSetOpen0
  | .frameSetOpen1 => .tx rowFrameSetOpen1
  | .frameSetOpen2 => .tx rowFrameSetOpen2
  | .frameSetOpen3 => .tx rowFrameSetOpen3
  | .frameSetClosed => .tx rowFrameSetClosed
  | .frameStatus f => .rx f.bytes

/-- The packet that stands for `w` given `nbits` bits by the table. The host's numbering has no port, so the width
picks one (log 13, DESIGN CHOICE, safe): 16 bits, or 8 bits with the upper byte 0 (the table fixes only bits 1:0 of a
command row), are a command word; no bits (the table fixes none of RX_BYTE's) is the inbound byte 0; 64 bits are a
frame, on TX if it is an outbound row and on RX otherwise. -/
def tablePacket (nbits w : Nat) : Option Packet :=
  if nbits = 0 then some (.rx [0])
  else if nbits = 8 ∨ nbits = 16 then some (.cmd (BitVec.ofNat nbits w |>.setWidth 16))
  else if nbits = 64 then
    let f := Frame.ofBits (BitVec.ofNat 64 w)
    if (decodeTx f).isSome then some (.tx f) else some (.rx f.bytes)
  else none

/-- The instruction this decoder reads from a word numbered as spec/opcode_table.json numbers it, at the parameters'
spec values (the table shows INBOUND_MARKER at 0x34). A frame on RX is an instruction of the table only if it is
FRAME_STATUS whole, not a last byte. -/
def decodeTableWord (nbits w : Nat) : Option Instr :=
  match tablePacket nbits w with
  | none => none
  | some pk =>
    match decode Params.spec pk with
    | .ok i => if encode i = pk then some i else none
    | .error _ => none

end Sys2Proof
end

