-- ==== Sys2Proof/Machine/State.lean ====
section
/-! DEFINITION. The state of the block (spec 10), the outcomes' reasons, and the state right after reset. -/

namespace Sys2Proof.Machine

/-- `cu_phase` (10 R25). -/
inductive CuPhase where
  /-- No command in flight. -/
  | idle
  /-- The first frame of the command is offered and its answer awaited. -/
  | wait1
  /-- The second frame of a PULSE is offered and its answer awaited. -/
  | wait2
  deriving DecidableEq, Repr

/-- The response codes (60 R120). -/
inductive RespCode where
  | ok
  | transportError
  | invalidIndex
  | invalidCommand
  deriving DecidableEq, Repr

/-- The relay-state vector: `vi` is true when relay i is closed (30 R68). -/
structure RelayVector where
  v0 : Bool
  v1 : Bool
  v2 : Bool
  v3 : Bool
  deriving DecidableEq, Repr

/-- The transport's answer to an offered frame (40 R81). No value stands for "never answers": that run's script simply
holds no answer. -/
inductive TxAnswer where
  /-- All eight bytes reached the wire. -/
  | ok
  /-- Exactly the first k bytes reached the wire, k in 0..8, a draw. -/
  | fail (k : Fin 9)
  deriving DecidableEq, Repr

/-- One event of the environment or of the CMD port's choice (00 R5, R8; 60 R129). -/
inductive Event where
  /-- A host caller presents a command word (40 R80). -/
  | cmd (w : CmdWord)
  /-- The port accepts the command of the n-th waiting caller, oldest first; which one is free (40 R80). -/
  | accept (n : Nat)
  /-- The transport delivers inbound bytes in one notification (41 R100, R111). -/
  | rx (bytes : List Byte)
  /-- The transport answers the pending write (40 R86). -/
  | txAnswer (a : TxAnswer)
  /-- Reset; k is the draw of how many bytes of an abandoned frame reach the wire (70 R140, R141). -/
  | reset (k : Fin 9)
  deriving DecidableEq, Repr

/-- The decoder's phase, derived from `rx_cnt` (10 R24). -/
inductive DecoderPhase where
  | idle
  | accumulating
  | dispatch
  deriving DecidableEq, Repr

/-- Why a step faults. It has no constructor: no rule of the spec stops the block (41 R109, 60 R127), so no one raises
a fault, and that is the spec's own statement, not a simplification (log 15). -/
inductive Fault where
  deriving DecidableEq, Repr

/-- Why a step is refused. -/
inductive Refusal where
  /-- An instruction with no meaning yet. Only an arm of `exec` may raise it; it is safe. No arm does. -/
  | notModelled (mnemonic : String)
  deriving DecidableEq, Repr

/-- Everything the spec gives the block, and the two fields the model needs of its own. Plain data. -/
structure State where
  /-- `rx_cnt`: how many bytes of the current inbound frame are held (10 R22). -/
  rxCnt : BitVec 3
  /-- `rx_buf[0..6]` (10 R23). Elements from `rxCnt` on are never read. -/
  rxBuf : Vector Byte 7
  /-- `cu_phase` (10 R25). -/
  cuPhase : CuPhase
  /-- `cu_op`, meaningful only while a command is in flight (10 R25). -/
  cuOp : CuOp
  /-- `cu_idx`, meaningful only for a SET or PULSE in flight (10 R25). -/
  cuIdx : BitVec 2
  /-- `cu_frame`: the frame currently offered to the transport (10 R25). -/
  cuFrame : Frame
  /-- `tx_log`: the bytes that have reached the outbound wire, in wire order (10 R26). -/
  txLog : List Byte
  /-- `status_log`: the STATUS events, oldest first (10 R26). -/
  statusLog : List RelayVector
  /-- `resp_log`: the RESP events, oldest first (10 R26). -/
  respLog : List RespCode
  /-- The construction-time parameters (00 R7, 10 R21); no step writes them (log 2). -/
  params : Params
  /-- The commands held on the CMD port, oldest first (40 R80, 60 R129; log 3). -/
  cmdPort : List CmdWord
  /-- MODEL'S OWN: the events to come, oldest first (log 1). -/
  events : List Event
  /-- MODEL'S OWN: how many free values have been taken (log 9). -/
  draws : Nat
  deriving DecidableEq, Repr

/-- The machine right after reset, newly constructed (10 R26, R34). `rxBuf`, `cuOp`, `cuIdx` and `cuFrame` are
unspecified there: their values are the model's (log 8, DESIGN CHOICE, unsafe). No caller waits (log 3, DESIGN CHOICE,
unsafe); no event is scheduled (log 1) and no free value taken (log 9, DESIGN CHOICE). -/
def State.reset : State :=
  { rxCnt := 0
    rxBuf := Vector.replicate 7 0
    cuPhase := .idle
    cuOp := .query
    cuIdx := 0
    cuFrame := ⟨0, 0, 0, 0, 0, 0, 0, 0⟩
    txLog := []
    statusLog := []
    respLog := []
    params := Params.spec
    cmdPort := []
    events := []
    draws := 0 }

end Sys2Proof.Machine
end

