-- ==== Sys2Proof/Machine/Flags.lean ====
section
/-! DEFINITION. The block has no flags (10 R29). Its only computed conditions are the checksum check and the validity of
an inbound frame, both computed inside the step that completes the frame. -/

namespace Sys2Proof.Machine

/-- `chk(f)`: the sum of bytes 0 to 6, mod 256 (30 R62). -/
def chk (f : Frame) : Byte :=
  BitVec.ofNat 8
    (f.b0.toNat + f.b1.toNat + f.b2.toNat + f.b3.toNat + f.b4.toNat + f.b5.toNat + f.b6.toNat)

/-- `sint(f[0]) + ... + sint(f[6])`, unbounded (30 R63). -/
def signedSum (f : Frame) : Int :=
  f.b0.toInt + f.b1.toInt + f.b2.toInt + f.b3.toInt + f.b4.toInt + f.b5.toInt + f.b6.toInt

/-- `chk_ok(f)` under each CHECKSUM_RULE (30 R62, R63). -/
def chkOk (r : ChecksumRule) (f : Frame) : Bool :=
  match r with
  | .mod256 => chk f == f.b7
  | .signedWide => signedSum f == f.b7.toInt

/-- `valid(f)`: marker and checksum, and no other byte (30 R67, 41 R103). -/
def valid (p : Params) (f : Frame) : Bool :=
  f.b0 == p.inboundMarker && chkOk p.checksumRule f

end Sys2Proof.Machine
end

