-- ==== Sys2Proof/Machine/Operands.lean ====
section
/-! DEFINITION. The operand forms: the constants of 00 R6, the outbound frames built from a command's operands (30 R64,
R65, R71), and the relay-state vector read from an inbound frame (30 R66, R68, R69). -/

namespace Sys2Proof.Machine

/-- FRAME_LEN (00 R6). -/
def frameLen : Nat := 8

/-- NUM_RELAYS (00 R6). -/
def numRelays : Nat := 4

/-- OUT_MARKER (00 R6). -/
def outMarker : Byte := 0x55

/-- SUBADDR (00 R6). -/
def subAddr : Byte := 0x01

/-- TYPE_QUERY (00 R6). -/
def typeQuery : Byte := 0x00

/-- TYPE_SET (00 R6). -/
def typeSet : Byte := 0x01

/-- OPND_BASE: the operand byte of every relay a set frame does not name (00 R6, 90 C2). -/
def opndBase : Byte := 0x01

/-- ST_CLOSED: the inbound state byte that means closed (00 R6). -/
def stClosed : Byte := 0x02

/-- OPND_OPEN and OPND_CLOSED (00 R6, 30 R71). The inbound codes are the other way round, and that is no error
(30 R74). -/
def operandByte : Desired → Byte
  | .openReq => 0x02
  | .closedReq => 0x01

/-- An index is legal for SET and PULSE iff it is at most 3 (30 R71). -/
def legalIndex (idx : Byte) : Bool := decide (idx.toNat < numRelays)

/-- The operand byte of relay `lane` in the set frame for relay `idx` (30 R65). -/
def setOperand (idx : BitVec 2) (d : Desired) (lane : BitVec 2) : Byte :=
  if lane = idx then operandByte d else opndBase

/-- The frame with byte 7 replaced by its checksum (30 R62, 40 R87). -/
def withChecksum (f : Frame) : Frame := { f with b7 := chk f }

/-- `QUERY_FRAME` (30 R64). -/
def queryFrame : Frame := ⟨outMarker, subAddr, typeQuery, 0x00, 0x00, 0x00, 0x00, 0x56⟩

/-- `set_frame(idx, d)` (30 R65). -/
def setFrame (idx : BitVec 2) (d : Desired) : Frame :=
  withChecksum
    { b0 := outMarker, b1 := subAddr, b2 := typeSet
      b3 := setOperand idx d 0, b4 := setOperand idx d 1, b5 := setOperand idx d 2, b6 := setOperand idx d 3
      b7 := 0 }

/-- The relay-state vector of an inbound frame, lane by lane: closed iff the state byte is 0x02 (41 R105, R107). -/
def relayVector (f : Frame) : RelayVector :=
  { v0 := f.b3 == stClosed, v1 := f.b4 == stClosed, v2 := f.b5 == stClosed, v3 := f.b6 == stClosed }

/-- The packed form `vs`: bit i is `v[i]` (30 R69). -/
def RelayVector.packed (v : RelayVector) : BitVec 4 :=
  BitVec.ofNat 4 (v.v3.toNat * 8 + v.v2.toNat * 4 + v.v1.toNat * 2 + v.v0.toNat)

/-- The number of a response code (60 R120). -/
def RespCode.code : RespCode → Nat
  | .ok => 0
  | .transportError => 1
  | .invalidIndex => 2
  | .invalidCommand => 3

end Sys2Proof.Machine
end

