-- ==== Sys2Proof/Machine/Ops.lean ====
section
/-! DEFINITION. The shared operations: the primitives of 00 R11, the CMD port (40 R80), the transport's answer (40 R86),
the delivery of one inbound byte (41 R101, R102) and reset (70 R140, R141). -/

namespace Sys2Proof.Machine

/-- `Respond(code)` (00 R11, 60 R120). -/
def State.respond (c : RespCode) (s : State) : State := { s with respLog := s.respLog ++ [c] }

/-- `raise`: the block's whole exception mechanism. It ends the current command with one RESP: nothing is saved, no
mode changes, nothing is masked and no control is transferred, and there is no return from it (60 R127, R128). -/
def State.raise (c : RespCode) (s : State) : State := s.respond c

/-- `EmitStatus(v)` (00 R11, 41 R105). It does not depend on a consumer being there (41 R108). -/
def State.emitStatus (v : RelayVector) (s : State) : State := { s with statusLog := s.statusLog ++ [v] }

/-- Bytes reach the outbound wire (10 R26, 20 R41). -/
def State.appendTx (bytes : List Byte) (s : State) : State := { s with txLog := s.txLog ++ bytes }

/-- `TxWrite(f)`: frame `f` is offered to the transport (40 R81). -/
def State.txWrite (f : Frame) (s : State) : State := { s with cuFrame := f }

/-- `cu_phase <- ph`. -/
def State.setPhase (ph : CuPhase) (s : State) : State := { s with cuPhase := ph }

/-- A command presented while one is in flight has no step and is held on the port (40 R80, 60 R129; log 3). -/
def State.hold (w : CmdWord) (s : State) : State := { s with cmdPort := s.cmdPort ++ [w] }

/-- The CMD port: the command with word `w` is accepted, with outcome `accepted`, when the unit is idle, and held
otherwise (40 R80). -/
def State.present (s : State) (w : CmdWord) (accepted : State) : State :=
  if s.cuPhase = .idle then accepted else s.hold w

/-- The transport answers OK (40 R86). -/
def State.answerOk (s : State) : State :=
  if s.cuPhase = .wait1 ∧ s.cuOp = .pulse then
    ((s.appendTx s.cuFrame.bytes).txWrite (setFrame s.cuIdx .closedReq)).setPhase .wait2
  else
    ((s.appendTx s.cuFrame.bytes).respond .ok).setPhase .idle

/-- The transport answers FAIL(k) (40 R86, 60 R121). -/
def State.answerFail (k : Fin 9) (s : State) : State :=
  ((s.appendTx (s.cuFrame.bytes.take k.val)).raise .transportError).setPhase .idle

/-- The transport's answer, taken only while a write is pending (40 R86, 60 R129). With none pending there is nothing
to answer, and the answer of a write that reset abandoned is not taken (70 R141; log 7, DEDUCED, unsafe). -/
def State.takeAnswer (a : TxAnswer) (s : State) : State :=
  if s.cuPhase = .idle then s
  else
    match a with
    | .ok => s.answerOk
    | .fail k => s.answerFail k

/-- Frame `f` goes out whole: the OK answer to a pending write of `f` (40 R81, R86; log 4, DEDUCED, unsafe). A frame
that is not offered never reaches the wire (30 R73, 40 R90; log 5, DESIGN CHOICE, unsafe). -/
def State.sendFrame (f : Frame) (s : State) : State :=
  if s.cuPhase ≠ .idle ∧ s.cuFrame = f then s.answerOk else s

/-- The inbound frame that byte `b` completes (41 R102). -/
def State.completedFrame (b : Byte) (s : State) : Frame :=
  { b0 := s.rxBuf[0], b1 := s.rxBuf[1], b2 := s.rxBuf[2], b3 := s.rxBuf[3]
    b4 := s.rxBuf[4], b5 := s.rxBuf[5], b6 := s.rxBuf[6], b7 := b }

/-- `rx_buf[rx_cnt] <- b; rx_cnt <- rx_cnt + 1` (41 R101). -/
def State.accumulate (b : Byte) (s : State) : State :=
  { s with rxBuf := s.rxBuf.setIfInBounds s.rxCnt.toNat b, rxCnt := s.rxCnt + 1 }

/-- Validation of a completed frame: dispatch it, or drop it with no trace (41 R103, R104, R105). -/
def State.validateAndDispatch (f : Frame) (s : State) : State :=
  if valid s.params f then s.emitStatus (relayVector f) else s

/-- One inbound byte is delivered (41 R101, R102). -/
def State.receive (b : Byte) (s : State) : State :=
  if s.rxCnt = 7 then ({ s with rxCnt := 0 } : State).validateAndDispatch (s.completedFrame b)
  else s.accumulate b

/-- The window that byte `b` makes with the held bytes (10 R22, R23). -/
def State.window (b : Byte) (s : State) : List Byte := s.rxBuf.toList.take s.rxCnt.toNat ++ [b]

/-- Inbound frame `f` completes: its eighth byte is delivered while its first seven are held (41 R102; log 6, DEDUCED,
safe). While they are not, `f` is not the frame on RX, and there is no such step (log 5, DESIGN CHOICE, unsafe). -/
def State.completeFrame (f : Frame) (s : State) : State :=
  if s.rxCnt = 7 ∧ s.completedFrame f.b7 = f then s.receive f.b7 else s

/-- The bytes of an abandoned frame that reach the wire: any prefix, the length is a draw (70 R141; log 10). -/
def State.abandon (k : Fin 9) (s : State) : State :=
  if s.cuPhase = .idle then s else s.appendTx (s.cuFrame.bytes.take k.val)

/-- The reset values of 10 R34; the unspecified elements take free values (log 9, safe). The logs, the parameters
and the waiting callers are unchanged (70 R140, R142, R149; log 3). -/
def State.resetElements (s : State) : State :=
  { s with
    rxCnt := 0
    rxBuf := Config.freeRxBuf s.draws
    cuPhase := .idle
    cuOp := Config.freeCuOp s.draws
    cuIdx := Config.freeCuIdx s.draws
    cuFrame := Config.freeCuFrame s.draws
    draws := s.draws + 1 }

/-- The reset event (70 R140, R141). It emits no event. -/
def State.takeReset (k : Fin 9) (s : State) : State := (s.abandon k).resetElements

/-- The decoder phase between two steps (10 R24): never Dispatch. -/
def State.decoderPhase (s : State) : DecoderPhase :=
  if s.rxCnt = 0 then .idle else .accumulating

/-- What the STATUS consumer has received: every STATUS event if one is bound, else nothing (41 R108; log 17). -/
def State.consumerSees (s : State) : List RelayVector :=
  if s.params.observer then s.statusLog else []

end Sys2Proof.Machine
end

