-- ==== Sys2Proof/Machine/Command.lean ====
section
/-! DEFINITION. The host commands (40 R82 to R85). Each is accepted when the unit is idle and held otherwise (40 R80);
the acceptance step of each is a definition of its own. -/

namespace Sys2Proof.Machine

/-- Acceptance of QUERY (40 R82). -/
def State.acceptQuery (s : State) : State :=
  ({ s with cuOp := .query } : State).txWrite queryFrame |>.setPhase .wait1

/-- Acceptance of SET (40 R83): the index check comes before any frame is built. -/
def State.acceptSet (idx : Byte) (d : Desired) (s : State) : State :=
  if legalIndex idx then
    ({ s with cuOp := .set, cuIdx := idx.setWidth 2 } : State).txWrite (setFrame (idx.setWidth 2) d)
      |>.setPhase .wait1
  else s.raise .invalidIndex

/-- Acceptance of PULSE (40 R84): the Open frame is offered; 40 R86 issues the Closed frame. -/
def State.acceptPulse (idx : Byte) (s : State) : State :=
  if legalIndex idx then
    ({ s with cuOp := .pulse, cuIdx := idx.setWidth 2 } : State).txWrite (setFrame (idx.setWidth 2) .openReq)
      |>.setPhase .wait1
  else s.raise .invalidIndex

/-- Acceptance of RSVD (40 R85): whatever IDX holds (60 R126). -/
def State.acceptRsvd (s : State) : State := s.raise .invalidCommand

/-- QUERY. -/
def execQuery (idx : Byte) (rsv : BitVec 5) (dBit : Bool) (s : State) : Host.Outcome State Fault Refusal :=
  .next (s.present (cmdWord idx rsv dBit 0) s.acceptQuery)

/-- SET. -/
def execSet (idx : Byte) (rsv : BitVec 5) (d : Desired) (s : State) : Host.Outcome State Fault Refusal :=
  .next (s.present (cmdWord idx rsv d.toBit 1) (s.acceptSet idx d))

/-- PULSE. -/
def execPulse (idx : Byte) (rsv : BitVec 5) (dBit : Bool) (s : State) : Host.Outcome State Fault Refusal :=
  .next (s.present (cmdWord idx rsv dBit 2) (s.acceptPulse idx))

/-- RSVD. -/
def execRsvd (idx : Byte) (rsv : BitVec 5) (dBit : Bool) (s : State) : Host.Outcome State Fault Refusal :=
  .next (s.present (cmdWord idx rsv dBit 3) s.acceptRsvd)

end Sys2Proof.Machine
end

