-- ==== Sys2Proof/Machine/Inbound.lean ====
section
/-! DEFINITION. The frame decoder's instructions: the delivery of one inbound byte, and the delivery that completes a
status frame (41 R100 to R105). Each is one byte and one step (00 R5, 41 R100), taken whatever the command unit does (41
R109). -/

namespace Sys2Proof.Machine

/-- RX_BYTE (41 R101, R102). -/
def execRxByte (b : Byte) (s : State) : Host.Outcome State Fault Refusal := .next (s.receive b)

/-- FRAME_STATUS: the one step in which frame `f` completes, so its eighth byte is delivered, and `f` is validated and
dispatched, or dropped (41 R102 to R105). -/
def execFrameStatus (f : Frame) (s : State) : Host.Outcome State Fault Refusal := .next (s.completeFrame f)

end Sys2Proof.Machine
end

