-- ==== Sys2Proof/Machine/Outbound.lean ====
section
/-! DEFINITION. The outbound frame rows (30 R64, R65, R73; 40 R88). The block emits them and nothing else: running such
a row is the step in which that frame, offered to the transport, reaches the wire whole, that is the OK answer to it (40
R86; log 4, DEDUCED, unsafe). -/

namespace Sys2Proof.Machine

/-- FRAME_QUERY (30 R64). -/
def execFrameQuery (s : State) : Host.Outcome State Fault Refusal := .next (s.sendFrame queryFrame)

/-- FRAME_SET_OPEN_0 (30 R65). -/
def execFrameSetOpen0 (s : State) : Host.Outcome State Fault Refusal := .next (s.sendFrame (setFrame 0 .openReq))

/-- FRAME_SET_OPEN_1 (30 R65). -/
def execFrameSetOpen1 (s : State) : Host.Outcome State Fault Refusal := .next (s.sendFrame (setFrame 1 .openReq))

/-- FRAME_SET_OPEN_2 (30 R65). -/
def execFrameSetOpen2 (s : State) : Host.Outcome State Fault Refusal := .next (s.sendFrame (setFrame 2 .openReq))

/-- FRAME_SET_OPEN_3 (30 R65). -/
def execFrameSetOpen3 (s : State) : Host.Outcome State Fault Refusal := .next (s.sendFrame (setFrame 3 .openReq))

/-- FRAME_SET_CLOSED (30 R65): one frame for every index. -/
def execFrameSetClosed (s : State) : Host.Outcome State Fault Refusal := .next (s.sendFrame (setFrame 0 .closedReq))

end Sys2Proof.Machine
end

