-- ==== Sys2Proof/Machine/Dispatch.lean ====
section
/-! DEFINITION. One arm per instruction, each one direct call of its meaning. -/

namespace Sys2Proof.Machine

def exec (i : Instr) (s : State) : Host.Outcome State Fault Refusal :=
  match i with
  | .query idx rsv dBit => Sys2Proof.Machine.execQuery idx rsv dBit s
  | .set idx rsv d => Sys2Proof.Machine.execSet idx rsv d s
  | .pulse idx rsv dBit => Sys2Proof.Machine.execPulse idx rsv dBit s
  | .rsvd idx rsv dBit => Sys2Proof.Machine.execRsvd idx rsv dBit s
  | .rxByte b => Sys2Proof.Machine.execRxByte b s
  | .frameQuery => Sys2Proof.Machine.execFrameQuery s
  | .frameSetOpen0 => Sys2Proof.Machine.execFrameSetOpen0 s
  | .frameSetOpen1 => Sys2Proof.Machine.execFrameSetOpen1 s
  | .frameSetOpen2 => Sys2Proof.Machine.execFrameSetOpen2 s
  | .frameSetOpen3 => Sys2Proof.Machine.execFrameSetOpen3 s
  | .frameSetClosed => Sys2Proof.Machine.execFrameSetClosed s
  | .frameStatus f => Sys2Proof.Machine.execFrameStatus f s

end Sys2Proof.Machine
end

