-- ==== Sys2Proof/Machine/Fetch.lean ====
section
/-! DEFINITION. What the next event asks for. The block fetches no instructions (10 R28, 20 R55): "fetching" here is
reading the next event from the script and decoding the command word, the inbound byte or the offered frame it
concerns (log 1, 18). -/

namespace Sys2Proof.Machine

/-- What a step is to do, and the state it does it in (the event taken off the script). -/
inductive Fetched where
  /-- Run an instruction. -/
  | run (i : Instr) (s : State)
  /-- Take a transport answer that is no row of the table. -/
  | answer (a : TxAnswer) (s : State)
  /-- Reset. -/
  | reset (k : Fin 9) (s : State)
  /-- Nothing is enabled: no event, or an event that has no step. -/
  | quiet (s : State)
  deriving DecidableEq, Repr

/-- What is left of a notification stays at the head of the script: no byte is lost or overtaken (41 R111). -/
def pushRx (rest : List Byte) (es : List Event) : List Event :=
  match rest with
  | [] => es
  | _ :: _ => .rx rest :: es

/-- The port accepts the n-th waiting caller's command, if the unit is idle and there is one (40 R80). -/
def fetchHeld (n : Nat) (s : State) : Fetched :=
  if s.cuPhase = .idle then
    match s.cmdPort[n]? with
    | some w => .run (decodeCmd w) { s with cmdPort := s.cmdPort.eraseIdx n }
    | none => .quiet s
  else .quiet s

/-- The first byte of an inbound notification, one step's delivery (00 R5, 41 R100). An empty notification delivers
nothing. -/
def fetchRx (bytes : List Byte) (s : State) : Fetched :=
  match bytes with
  | [] => .quiet s
  | b :: rest =>
    match decodeRx s.params (s.window b) with
    | some i => .run i { s with events := pushRx rest s.events }
    | none => .quiet s

/-- A transport answer (40 R86). An OK answer to a pending write is the outbound row of the offered frame; an offered
frame that is no outbound row (no run from reset offers one, 40 R88) is answered all the same. -/
def fetchAnswer (a : TxAnswer) (s : State) : Fetched :=
  if s.cuPhase = .idle then .quiet s
  else
    match a with
    | .fail k => .answer (.fail k) s
    | .ok =>
      match decodeTx s.cuFrame with
      | some i => .run i s
      | none => .answer .ok s

/-- The next event, taken off the script. With no event the block takes no step (60 R136). -/
def fetch (s : State) : Fetched :=
  match s.events with
  | [] => .quiet s
  | .cmd w :: es => .run (decodeCmd w) { s with events := es }
  | .accept n :: es => fetchHeld n { s with events := es }
  | .rx bytes :: es => fetchRx bytes { s with events := es }
  | .txAnswer a :: es => fetchAnswer a { s with events := es }
  | .reset k :: es => .reset k { s with events := es }

/-- `s` with an inbound window placed: all its bytes but the last are held, and the last is delivered next. A window
of fewer than eight bytes stands for the RX_BYTE of its last one, placed on a frame boundary. -/
def placeWindow (s : State) : List Byte → State
  | [b0, b1, b2, b3, b4, b5, b6, b7] =>
    { s with rxCnt := 7, rxBuf := #v[b0, b1, b2, b3, b4, b5, b6], events := .rx [b7] :: s.events }
  | window => { s with rxCnt := 0, events := .rx window.getLast?.toList :: s.events }

/-- `s` with an instruction's packet placed as its next event. An outbound frame is placed as the pending write of the
command that emits it, with the transport's OK answer next (40 R82, R83, R86; log 18). -/
def placePacket (pk : Packet) (s : State) : State :=
  match pk with
  | .cmd w => { s with events := .cmd w :: s.events }
  | .rx window => placeWindow s window
  | .tx f =>
    let t : State := { s with cuPhase := .wait1, cuFrame := f, events := .txAnswer .ok :: s.events }
    if f = rowFrameQuery then { t with cuOp := .query }
    else if f = rowFrameSetOpen0 then { t with cuOp := .set, cuIdx := 0 }
    else if f = rowFrameSetOpen1 then { t with cuOp := .set, cuIdx := 1 }
    else if f = rowFrameSetOpen2 then { t with cuOp := .set, cuIdx := 2 }
    else if f = rowFrameSetOpen3 then { t with cuOp := .set, cuIdx := 3 }
    else { t with cuOp := .set }

/-- `s` with the word of spec/opcode_table.json's numbering placed next (log 13, 18). -/
def placeTableWord (s : State) (nbits w : Nat) : State :=
  match tablePacket nbits w with
  | some pk => placePacket pk s
  | none => s

end Sys2Proof.Machine
end

