-- ==== Sys2Proof/Machine/Step.lean ====
section
/-! DEFINITION. One step: the next event of the script, run to its end (00 R5). -/

namespace Sys2Proof.Machine

/-- One step of the block. -/
def step (s : State) : Host.Outcome State Fault Refusal :=
  match fetch s with
  | .run i t => exec i t
  | .answer a t => .next (t.takeAnswer a)
  | .reset k t => .next (t.takeReset k)
  | .quiet t => .next t

/-- `s` with an instruction placed where `step` reads its next one (log 18). -/
def State.withFetchWord (s : State) (nbits w : Nat) : State := placeTableWord s nbits w

end Sys2Proof.Machine
end

