-- ==== Sys2Proof/Machine/Assembly.lean ====
section
/-! DEFINITION. The spec's own assembly lines and test-bench directives (30 R76; 92 D24): what each line is, how its text
reads, and the event script a program stands for. -/

namespace Sys2Proof.Machine

/-- One line (30 R76). -/
inductive Line where
  /-- `QUERY` -/
  | query
  /-- `SET <idx>, OPEN` and `SET <idx>, CLOSED` -/
  | set (idx : Byte) (d : Desired)
  /-- `PULSE <idx>` -/
  | pulse (idx : Byte)
  /-- `.word <w>` -/
  | word (w : CmdWord)
  /-- `@tx ok` and `@tx fail <k>` -/
  | tx (a : TxAnswer)
  /-- `@rx <b0> <b1> ...` -/
  | rx (bytes : List Byte)
  /-- `@reset` -/
  | reset
  deriving DecidableEq, Repr

/-- The command word of a host command line (30 R76): idx in bits 15:8, and 0x0005, 0x0001, 0x0002 below. -/
def Line.word? : Line → Option CmdWord
  | .query => some 0x0000
  | .set idx .openReq => some (idx.setWidth 16 <<< 8 ||| 0x0005)
  | .set idx .closedReq => some (idx.setWidth 16 <<< 8 ||| 0x0001)
  | .pulse idx => some (idx.setWidth 16 <<< 8 ||| 0x0002)
  | .word w => some w
  | .tx _ => none
  | .rx _ => none
  | .reset => none

/-- How many writes a command makes if each is answered OK (40 R82 to R85). -/
def writesOf (w : CmdWord) : Nat :=
  match decodeCmd w with
  | .query _ _ _ => 1
  | .set idx _ _ => if legalIndex idx then 1 else 0
  | .pulse idx _ _ => if legalIndex idx then 2 else 0
  | _ => 0

/-- The script of a program, `pending` writes still unanswered: where the program gives no `@tx` line for a pending
write, the transport answers OK (30 R76), before the next command or at the end (log 20, DEDUCED). A reset abandons
what is pending; its draw is the n-th of `draw` (70 R141). -/
def assemble (draw : Nat → Fin 9) (resets pending : Nat) : List Line → List Event
  | [] => List.replicate pending (.txAnswer .ok)
  | l :: ls =>
    match l.word? with
    | some w => List.replicate pending (.txAnswer .ok) ++ .cmd w :: assemble draw resets (writesOf w) ls
    | none =>
      match l with
      | .tx .ok => .txAnswer .ok :: assemble draw resets (pending - 1) ls
      | .tx (.fail k) => .txAnswer (.fail k) :: assemble draw resets 0 ls
      | .rx bytes => .rx bytes :: assemble draw resets pending ls
      | _ => .reset (draw resets) :: assemble draw (resets + 1) 0 ls

/-- Mnemonics are case-insensitive (30 R76). -/
def lowerChar (c : Char) : Char :=
  if 'A'.toNat ≤ c.toNat ∧ c.toNat ≤ 'Z'.toNat then Char.ofNat (c.toNat + 32) else c

/-- The words of a line: blanks and commas separate, `;` starts a comment (30 R76). `cur` is the word being read. -/
def lineWords (cur : List Char) : List Char → List (List Char)
  | [] => if cur = [] then [] else [cur]
  | c :: cs =>
    if c = ';' then (if cur = [] then [] else [cur])
    else if c = ' ' ∨ c = ',' ∨ c = '\t' then
      (if cur = [] then lineWords [] cs else cur :: lineWords [] cs)
    else lineWords (cur ++ [lowerChar c]) cs

/-- The value of a digit in lower case. -/
def digitValue (base : Nat) (c : Char) : Option Nat :=
  let v := if '0'.toNat ≤ c.toNat ∧ c.toNat ≤ '9'.toNat then some (c.toNat - '0'.toNat)
    else if 'a'.toNat ≤ c.toNat ∧ c.toNat ≤ 'f'.toNat then some (c.toNat - 'a'.toNat + 10)
    else none
  v.bind fun n => if n < base then some n else none

/-- A numeral in the given base; at least one digit. -/
def numeral (base : Nat) : List Char → Option Nat
  | [] => none
  | c :: cs =>
    (c :: cs).foldl (fun acc d => acc.bind fun a => (digitValue base d).map fun v => a * base + v) (some 0)

/-- A number: `0x` hexadecimal or decimal (30 R76). -/
def number : List Char → Option Nat
  | '0' :: 'x' :: ds => numeral 16 ds
  | ds => numeral 10 ds

/-- A number that fits in `n` bits. -/
def fitted (n : Nat) (v : Option Nat) : Option (BitVec n) :=
  v.bind fun x => if x < 2 ^ n then some (BitVec.ofNat n x) else none

/-- A byte of an `@rx` line: hexadecimal, with or without `0x` (spec 95's opening words; log 20, DEDUCED). -/
def rxByteWord : List Char → Option Byte
  | '0' :: 'x' :: ds => fitted 8 (numeral 16 ds)
  | ds => fitted 8 (numeral 16 ds)

/-- The byte count of `@tx fail`, 0..8. -/
def failCount (v : Option Nat) : Option (Fin 9) :=
  v.bind fun x => if h : x < 9 then some ⟨x, h⟩ else none

/-- A line's text: `none` if it is no line of 30 R76, `some none` if it is blank or a comment. -/
def parseLine (text : List Char) : Option (Option Line) :=
  match lineWords [] text with
  | [] => some none
  | [m] =>
    if m = "query".toList then some (some .query)
    else if m = "@reset".toList then some (some .reset)
    else none
  | [m, a] =>
    if m = "pulse".toList then (fitted 8 (number a)).map fun i => some (.pulse i)
    else if m = ".word".toList then (fitted 16 (number a)).map fun w => some (.word w)
    else if m = "@tx".toList then (if a = "ok".toList then some (some (.tx .ok)) else none)
    else if m = "@rx".toList then (rxByteWord a).map fun b => some (.rx [b])
    else none
  | m :: a :: b :: more =>
    if m = "set".toList ∧ more = [] then
      if b = "open".toList then (fitted 8 (number a)).map fun i => some (.set i .openReq)
      else if b = "closed".toList then (fitted 8 (number a)).map fun i => some (.set i .closedReq)
      else none
    else if m = "@tx".toList ∧ a = "fail".toList ∧ more = [] then
      (failCount (number b)).map fun k => some (.tx (.fail k))
    else if m = "@rx".toList then ((a :: b :: more).mapM rxByteWord).map fun bs => some (.rx bs)
    else none

end Sys2Proof.Machine
end

