-- ==== Sys2Proof/Machine/Stream.lean ====
section
/-! DEFINITION. The inbound stream as the spec describes it whole (20 R44, R45, R51), and the reference software's
decoder, which 41 R112 relates to this block. Nothing here is a step of the block; claims compare the block with it. -/

namespace Sys2Proof.Machine

/-- The deliveries of several bytes, first byte first (41 R111). -/
def State.receiveAll (bytes : List Byte) (s : State) : State :=
  bytes.foldl (fun t b => t.receive b) s

/-- Inbound frame k is bytes 8k .. 8k+7 of the stream since reset, whatever their values (20 R44). -/
def cutFrames : List Byte → List Frame
  | b0 :: b1 :: b2 :: b3 :: b4 :: b5 :: b6 :: b7 :: rest => ⟨b0, b1, b2, b3, b4, b5, b6, b7⟩ :: cutFrames rest
  | _ => []

/-- The STATUS event a candidate frame gives, if any (30 R73, 41 R103 to R105). -/
def statusOf (p : Params) (f : Frame) : Option RelayVector :=
  if valid p f then some (relayVector f) else none

/-- The STATUS events of a stream that starts on a frame boundary, in order (20 R51). -/
def streamStatus (p : Params) (bytes : List Byte) : List RelayVector :=
  (cutFrames bytes).filterMap (statusOf p)

/-- The reference software's decoder: the bytes the transport still keeps unread, and what it has notified. -/
structure Reference where
  unread : List Byte
  notified : List RelayVector
  deriving DecidableEq, Repr

/-- One notification of the reference (41 R112): no action below eight bytes, which stay unread; else exactly eight are
read, validated and notified (90 C4, C10; log 21, DEDUCED). -/
def referenceNotify (p : Params) (r : Reference) (chunk : List Byte) : Reference :=
  match r.unread ++ chunk with
  | b0 :: b1 :: b2 :: b3 :: b4 :: b5 :: b6 :: b7 :: rest =>
    { unread := rest
      notified := r.notified ++ (statusOf p ⟨b0, b1, b2, b3, b4, b5, b6, b7⟩).toList }
  | few => { unread := few, notified := r.notified }

/-- The reference after a sequence of notifications. -/
def referenceRun (p : Params) (chunks : List (List Byte)) : Reference :=
  chunks.foldl (referenceNotify p) { unread := [], notified := [] }

end Sys2Proof.Machine
end

