-- ==== Sys2Proof/Safety.lean ====
section
/-! DEFINITION. The properties a good state has, in the terms the claims use. -/

namespace Sys2Proof.Machine

/-- The complete set of outbound frames (30 R73, 40 R88). -/
def outboundFrames : List Frame :=
  [queryFrame, setFrame 0 .openReq, setFrame 1 .openReq, setFrame 2 .openReq, setFrame 3 .openReq,
    setFrame 0 .closedReq]

/-- The frame on offer is the one the command in flight writes in its phase (40 R82, R83, R84, R86). -/
def State.OfferMatchesCommand (s : State) : Prop :=
  match s.cuPhase, s.cuOp with
  | .idle, _ => True
  | .wait1, .query => s.cuFrame = queryFrame
  | .wait1, .set => s.cuFrame = setFrame s.cuIdx .openReq ∨ s.cuFrame = setFrame s.cuIdx .closedReq
  | .wait1, .pulse => s.cuFrame = setFrame s.cuIdx .openReq
  | .wait2, .pulse => s.cuFrame = setFrame s.cuIdx .closedReq
  | .wait2, _ => False

/-- A wire content that whole and cut-off outbound frames, one after the other, can make up (20 R47, R49; 40 R81). -/
def FramedWire (wire : List Byte) : Prop :=
  ∃ parts : List (Frame × Nat), (∀ q ∈ parts, q.1 ∈ outboundFrames) ∧
    wire = (parts.map fun q => q.1.bytes.take q.2).flatten

/-- What the command unit keeps true: the offer matches the command and the wire holds only outbound frames. -/
def State.CommandSide (s : State) : Prop := s.OfferMatchesCommand ∧ FramedWire s.txLog

/-- Quiescent: no command in flight and none presented (10 R26). -/
def State.quiescent (s : State) : Bool := decide (s.cuPhase = .idle) && s.cmdPort.isEmpty

/-- The instructions of the command unit: host commands and outbound frames (40). The others are the decoder's (41). -/
def ofCommandUnit : Instr → Bool
  | .query _ _ _ => true
  | .set _ _ _ => true
  | .pulse _ _ _ => true
  | .rsvd _ _ _ => true
  | .rxByte _ => false
  | .frameQuery => true
  | .frameSetOpen0 => true
  | .frameSetOpen1 => true
  | .frameSetOpen2 => true
  | .frameSetOpen3 => true
  | .frameSetClosed => true
  | .frameStatus _ => false

/-- The events of the command unit: a command, a waiting command's turn, a transport answer (60 R129). -/
def commandEvent : Event → Bool
  | .cmd _ => true
  | .accept _ => true
  | .rx _ => false
  | .txAnswer _ => true
  | .reset _ => false

/-- The events that neither answer a pending write nor reset the block (70 R149). -/
def leavesWritePending : Event → Bool
  | .cmd _ => true
  | .accept _ => true
  | .rx _ => true
  | .txAnswer _ => false
  | .reset _ => false

/-- The words that a script's host callers present. -/
def presentedWords : List Event → List CmdWord
  | [] => []
  | .cmd w :: es => w :: presentedWords es
  | .accept _ :: es => presentedWords es
  | .rx _ :: es => presentedWords es
  | .txAnswer _ :: es => presentedWords es
  | .reset _ :: es => presentedWords es

/-- Two states that differ at most in elements no rule reads (10 R23, R25, R35): `rx_buf` from `rx_cnt` on, the `cu_*`
elements while idle, `cu_idx` of a QUERY; and in the model's own count of draws. -/
def SameLive (s t : State) : Prop :=
  s.rxCnt = t.rxCnt ∧
  (∀ j : Fin 7, j.val < s.rxCnt.toNat → s.rxBuf[j] = t.rxBuf[j]) ∧
  s.cuPhase = t.cuPhase ∧
  (s.cuPhase ≠ .idle → s.cuOp = t.cuOp ∧ s.cuFrame = t.cuFrame ∧ (s.cuOp ≠ .query → s.cuIdx = t.cuIdx)) ∧
  s.txLog = t.txLog ∧ s.statusLog = t.statusLog ∧ s.respLog = t.respLog ∧
  s.params = t.params ∧ s.cmdPort = t.cmdPort ∧ s.events = t.events

/-- `n` steps of the block, stopping at the first that answers no next state. -/
def stepN : Nat → State → Host.Outcome State Fault Refusal
  | 0, s => .next s
  | n + 1, s =>
    match step s with
    | .next t => stepN n t
    | .fault r => .fault r
    | .refused r => .refused r

end Sys2Proof.Machine
end

