-- ==== Sys2Proof/Certificates/Slice0/Obligations.lean ====
section
/-! DEFINITION. The statements. Each docstring names the rule it formalises, or says what it rests on. -/

open Sys2Proof Sys2Proof.Machine

/-! ### Encoding -/

/-- Decoding an encoded well-formed instruction gives it back: no bit of an encoding is dropped (30 R64, R65, R70; the
ports and what a window of RX is, log 4 and 6, are the model's reading). -/
def Obligations.DecodeEncodeRoundTrip : Prop :=
  ∀ (p : Params) (i : Instr), i.wf p = true → decode p (encode i) = .ok i

/-- What decodes is well formed, and encoding it gives the packet back; only an RX_BYTE that is not the first of its
frame is encoded without the bytes held before it, and those did not make it complete a frame that begins with the
marker (log 6). -/
def Obligations.EncodeDecodeRoundTrip : Prop :=
  ∀ (p : Params) (pk : Packet) (i : Instr), decode p pk = .ok i →
    i.wf p = true ∧
    match pk with
    | .cmd w => encode i = .cmd w
    | .rx window =>
      encode i = .rx window ∨
        ∃ (held : List Byte) (b : Byte), i = .rxByte b ∧ window = held ++ [b] ∧ held.length ≤ 7 ∧
          (held.length = 7 → held.head? ≠ some p.inboundMarker)
    | .tx f => encode i = .tx f

/-- Words written out from 30 R70 and R76, the frames of 40 R88, V1 of spec 95 as a frame of 30 R66, and a single byte (a
sanity statement; that eight inbound bytes with the marker first are the row FRAME_STATUS is the model's reading,
log 6). -/
def Obligations.SampleWordsDecode : Prop :=
  decodeCmd 0b0000000000000000 = .query 0 0 false ∧
  decodeCmd 0b1010101111111100 = .query 0xAB 0b11111 true ∧
  decodeCmd 0b0000000100000101 = .set 1 0 .openReq ∧
  decodeCmd 0b1111111100000001 = .set 255 0 .closedReq ∧
  decodeCmd 0b0000001100000110 = .pulse 3 0 true ∧
  decodeCmd 0b0000011100000011 = .rsvd 7 0 false ∧
  decodeTx ⟨0x55, 0x01, 0x00, 0x00, 0x00, 0x00, 0x00, 0x56⟩ = some .frameQuery ∧
  decodeTx ⟨0x55, 0x01, 0x01, 0x01, 0x01, 0x02, 0x01, 0x5C⟩ = some .frameSetOpen2 ∧
  decodeRx Params.spec [0x34, 0x01, 0x01, 0x02, 0x01, 0x01, 0x01, 0x3B] =
    some (.frameStatus ⟨0x34, 0x01, 0x01, 0x02, 0x01, 0x01, 0x01, 0x3B⟩) ∧
  decodeRx Params.spec [0x34] = some (.rxByte 0x34)

/-- R70: IDX is w[15:8], RSV is w[7:3], D is w[2] and OP is w[1:0], for every command word. -/
def Obligations.CommandWordFields : Prop :=
  ∀ w : CmdWord,
    decodeCmd w =
      match w.toNat % 4 with
      | 0 => .query (BitVec.ofNat 8 (w.toNat / 256)) (BitVec.ofNat 5 (w.toNat / 8)) (w.toNat.testBit 2)
      | 1 => .set (BitVec.ofNat 8 (w.toNat / 256)) (BitVec.ofNat 5 (w.toNat / 8))
              (if w.toNat.testBit 2 then .openReq else .closedReq)
      | 2 => .pulse (BitVec.ofNat 8 (w.toNat / 256)) (BitVec.ofNat 5 (w.toNat / 8)) (w.toNat.testBit 2)
      | _ => .rsvd (BitVec.ofNat 8 (w.toNat / 256)) (BitVec.ofNat 5 (w.toNat / 8)) (w.toNat.testBit 2)

/-- No frame outside the six of the outbound table is an outbound row (the spec derives the set in 40 section 3). -/
def Obligations.OnlySixOutboundFrames : Prop :=
  ∀ f : Frame,
    decodeTx f = none ↔
      f ∉ [(⟨0x55, 0x01, 0x00, 0x00, 0x00, 0x00, 0x00, 0x56⟩ : Frame),
           ⟨0x55, 0x01, 0x01, 0x02, 0x01, 0x01, 0x01, 0x5C⟩, ⟨0x55, 0x01, 0x01, 0x01, 0x02, 0x01, 0x01, 0x5C⟩,
           ⟨0x55, 0x01, 0x01, 0x01, 0x01, 0x02, 0x01, 0x5C⟩, ⟨0x55, 0x01, 0x01, 0x01, 0x01, 0x01, 0x02, 0x5C⟩,
           ⟨0x55, 0x01, 0x01, 0x01, 0x01, 0x01, 0x01, 0x5B⟩]

/-- The bytes of the query frame (R64), and those of the set frame for every index and desired state with the closed-form
values of its byte 7, 0x5C and 0x5B, which 30 section 3 derives: "the closed-form values below follow from this
rule". -/
def Obligations.OutboundFrameBytes : Prop :=
  queryFrame = ⟨0x55, 0x01, 0x00, 0x00, 0x00, 0x00, 0x00, 0x56⟩ ∧ chk queryFrame = 0x56 ∧
  ∀ (idx : BitVec 2) (d : Desired),
    let f := setFrame idx d
    f.b0 = 0x55 ∧ f.b1 = 0x01 ∧ f.b2 = 0x01 ∧
    f.b3 = (if idx.toNat = 0 ∧ d = .openReq then 0x02 else 0x01) ∧
    f.b4 = (if idx.toNat = 1 ∧ d = .openReq then 0x02 else 0x01) ∧
    f.b5 = (if idx.toNat = 2 ∧ d = .openReq then 0x02 else 0x01) ∧
    f.b6 = (if idx.toNat = 3 ∧ d = .openReq then 0x02 else 0x01) ∧
    f.b7 = chk f ∧ f.b7 = (if d = .openReq then 0x5C else 0x5B)

/-- R64 and R65 as they stand: the query frame, and the set frame built from the baseline, the one operand byte and the
checksum of bytes 0 to 6. -/
def Obligations.OutboundFrameConstruction : Prop :=
  queryFrame.bytes = [0x55, 0x01, 0x00, 0x00, 0x00, 0x00, 0x00, 0x56] ∧
  ∀ (idx : BitVec 2) (d : Desired),
    (setFrame idx d).bytes =
      [0x55, 0x01, 0x01] ++ List.set [0x01, 0x01, 0x01, 0x01] idx.toNat (if d = .openReq then 0x02 else 0x01) ++
        [chk (setFrame idx d)]

/-- Every assembly line of a host command assembles to the word of its table row, which decodes to that command with its
ignored fields zero; `.word` assembles to its word as it is (30 section 7). -/
def Obligations.AssemblyWordsDecode : Prop :=
  (∃ w, Line.query.word? = some w ∧ decodeCmd w = .query 0 0 false) ∧
  (∀ (idx : Byte) (d : Desired), ∃ w, (Line.set idx d).word? = some w ∧ decodeCmd w = .set idx 0 d) ∧
  (∀ idx : Byte, ∃ w, (Line.pulse idx).word? = some w ∧ decodeCmd w = .pulse idx 0 false) ∧
  (∀ w : CmdWord, (Line.word w).word? = some w)

/-! ### Reset and the step -/

/-- R34: the values after reset, in the state right after construction and reset and after a reset event. -/
def Obligations.ResetValues : Prop :=
  (State.reset.rxCnt = 0 ∧ State.reset.cuPhase = .idle ∧
    State.reset.txLog = [] ∧ State.reset.statusLog = [] ∧ State.reset.respLog = []) ∧
  ∀ (s : State) (k : Fin 9) (es : List Event), s.events = .reset k :: es →
    ∃ t, step s = .next t ∧ t.rxCnt = 0 ∧ t.cuPhase = .idle ∧
      (s.cuPhase = .idle → t.txLog = s.txLog) ∧ t.statusLog = s.statusLog ∧ t.respLog = s.respLog ∧
      t.params = s.params

/-- R140 and R141: a reset event, for every draw k of the prefix. A partial inbound frame and a command in flight are
discarded, no event is emitted, an answer to the abandoned write is not taken, the next byte is byte 0 of a frame, and
the next command is accepted at once. -/
def Obligations.ResetEvent : Prop :=
  ∀ (s : State) (k : Fin 9) (es : List Event), s.events = .reset k :: es →
    ∃ t, step s = .next t ∧ t.rxCnt = 0 ∧ t.cuPhase = .idle ∧
      t.txLog = s.txLog ++ (if s.cuPhase = .idle then [] else s.cuFrame.bytes.take k.val) ∧
      t.statusLog = s.statusLog ∧ t.respLog = s.respLog ∧ t.params = s.params ∧ t.events = es ∧
      (s.cuPhase ≠ .idle → ∀ a : TxAnswer, step { t with events := .txAnswer a :: es } = .next t) ∧
      (∀ b : Byte, step { t with events := .rx [b] :: es } =
        .next { t with rxCnt := 1, rxBuf := t.rxBuf.set 0 b }) ∧
      (∀ w : CmdWord, step { t with events := .cmd w :: es } = exec (decodeCmd w) t ∧
        ∃ u, exec (decodeCmd w) t = .next u ∧ u.cmdPort = t.cmdPort)

/-- What a reset event leaves around the unit, where the model chose: the commands held on the port stay held (log 3,
DEDUCED, unsafe), and after it no transport answer is taken, whether or not a write was abandoned (log 7, DEDUCED,
unsafe). -/
def Obligations.ResetLeavesPort : Prop :=
  ∀ (s : State) (k : Fin 9) (es : List Event), s.events = .reset k :: es →
    ∃ t, step s = .next t ∧ t.cmdPort = s.cmdPort ∧
      ∀ a : TxAnswer, step { t with events := .txAnswer a :: es } = .next t

/-- R136: with no event the block takes no step and its state is unchanged. -/
def Obligations.QuietWithoutEvents : Prop :=
  ∀ s : State, s.events = [] → step s = .next s

/-- A step runs the decoded instruction: a command word when presented, a held word when its turn comes (log 3), the row
that the first inbound byte of a notification makes with the held bytes (log 6; the rest of the notification stays next),
and the offered frame's row when the transport answers OK (log 4); and the word the host places is the one that runs. The
script and the placing (log 1, 13, 18) are the model's. -/
def Obligations.StepRunsDecodedInstruction : Prop :=
  (∀ (s : State) (w : CmdWord) (es : List Event), s.events = .cmd w :: es →
    step s = exec (decodeCmd w) { s with events := es }) ∧
  (∀ (s : State) (n : Nat) (w : CmdWord) (es : List Event), s.events = .accept n :: es → s.cuPhase = .idle →
    s.cmdPort[n]? = some w →
    step s = exec (decodeCmd w) { s with events := es, cmdPort := s.cmdPort.eraseIdx n }) ∧
  (∀ (s : State) (b : Byte) (rest : List Byte) (i : Instr) (es : List Event), s.events = .rx (b :: rest) :: es →
    decodeRx s.params (s.rxBuf.toList.take s.rxCnt.toNat ++ [b]) = some i →
    step s = exec i { s with events := if rest = [] then es else .rx rest :: es }) ∧
  (∀ (s : State) (i : Instr) (es : List Event), s.events = .txAnswer .ok :: es → s.cuPhase ≠ .idle →
    decodeTx s.cuFrame = some i → step s = exec i { s with events := es }) ∧
  (∀ (s : State) (w : Nat), step (s.withFetchWord 16 w) = exec (decodeCmd (BitVec.ofNat 16 w)) s)

/-- From every state a step answers a next state: nothing in the spec stops the block (the spec derives this for the
decoder in 41 section 3, and 60 section 2 gives the command unit no trap). -/
def Obligations.StepAlwaysAnswers : Prop :=
  ∀ s : State, ∃ t, step s = .next t

/-- R21: no step writes the parameters. -/
def Obligations.ParametersNeverWritten : Prop :=
  ∀ s t : State, step s = .next t → t.params = s.params

/-- The three logs are histories: a step only appends to them, at most one whole frame, one STATUS and one RESP (10
section 4; 20 section 3 for the frame; 41 sections 1 and 3 for STATUS, one byte a step; 40 section 1 and 60 section 1 for
RESP). That FRAME_STATUS and the outbound rows are such single steps is the model's reading (log 6 and 4). -/
def Obligations.LogsOnlyGrow : Prop :=
  ∀ s t : State, step s = .next t →
    s.txLog <+: t.txLog ∧ t.txLog.length ≤ s.txLog.length + 8 ∧
    s.statusLog <+: t.statusLog ∧ t.statusLog.length ≤ s.statusLog.length + 1 ∧
    s.respLog <+: t.respLog ∧ t.respLog.length ≤ s.respLog.length + 1

/-! ### The command unit -/

/-- R82, whole: QUERY offers the constant frame whatever its fields hold; the answer OK or FAIL(k) ends it. -/
def Obligations.QueryCommand : Prop :=
  ∀ (s : State) (idx : Byte) (rsv : BitVec 5) (d : Bool) (es : List Event), s.cuPhase = .idle →
    let f : Frame := ⟨0x55, 0x01, 0x00, 0x00, 0x00, 0x00, 0x00, 0x56⟩
    let q : State := { s with cuOp := .query, cuFrame := f, cuPhase := .wait1 }
    exec (.query idx rsv d) s = .next q ∧
    step { q with events := .txAnswer .ok :: es } =
      .next { q with
        events := es, cuPhase := .idle, respLog := s.respLog ++ [.ok]
        txLog := s.txLog ++ [0x55, 0x01, 0x00, 0x00, 0x00, 0x00, 0x00, 0x56] } ∧
    ∀ k : Fin 9,
      step { q with events := .txAnswer (.fail k) :: es } =
        .next { q with
          events := es, cuPhase := .idle, respLog := s.respLog ++ [.transportError]
          txLog := s.txLog ++ f.bytes.take k.val }

/-- R83, whole: SET with a legal index offers its set frame and ends with the answer; an index above 3 is INVALID_INDEX
and nothing else. -/
def Obligations.SetCommand : Prop :=
  ∀ (s : State) (idx : Byte) (rsv : BitVec 5) (d : Desired) (es : List Event), s.cuPhase = .idle →
    (idx.toNat > 3 → exec (.set idx rsv d) s = .next { s with respLog := s.respLog ++ [.invalidIndex] }) ∧
    (idx.toNat ≤ 3 →
      let f := setFrame (idx.setWidth 2) d
      let q : State := { s with cuOp := .set, cuIdx := idx.setWidth 2, cuFrame := f, cuPhase := .wait1 }
      exec (.set idx rsv d) s = .next q ∧
      (d = .closedReq → f = ⟨0x55, 0x01, 0x01, 0x01, 0x01, 0x01, 0x01, 0x5B⟩) ∧
      step { q with events := .txAnswer .ok :: es } =
        .next { q with
          events := es, cuPhase := .idle, respLog := s.respLog ++ [.ok], txLog := s.txLog ++ f.bytes } ∧
      ∀ k : Fin 9,
        step { q with events := .txAnswer (.fail k) :: es } =
          .next { q with
            events := es, cuPhase := .idle, respLog := s.respLog ++ [.transportError]
            txLog := s.txLog ++ f.bytes.take k.val })

/-- R84 and R89, whole: PULSE offers the Open frame; the first OK puts it on the wire and offers the Closed frame in the
same step; the second OK ends it with one RESP; FAIL(k) of either write ends it with TRANSPORT_ERROR, and after a failed
first write the Closed frame is not offered; an index above 3 is INVALID_INDEX and nothing else. -/
def Obligations.PulseCommand : Prop :=
  ∀ (s : State) (idx : Byte) (rsv : BitVec 5) (d : Bool) (es : List Event), s.cuPhase = .idle →
    (idx.toNat > 3 → exec (.pulse idx rsv d) s = .next { s with respLog := s.respLog ++ [.invalidIndex] }) ∧
    (idx.toNat ≤ 3 →
      let f := setFrame (idx.setWidth 2) .openReq
      let g : Frame := ⟨0x55, 0x01, 0x01, 0x01, 0x01, 0x01, 0x01, 0x5B⟩
      let q : State := { s with cuOp := .pulse, cuIdx := idx.setWidth 2, cuFrame := f, cuPhase := .wait1 }
      let r : State := { q with cuFrame := g, cuPhase := .wait2, txLog := s.txLog ++ f.bytes }
      exec (.pulse idx rsv d) s = .next q ∧
      step { q with events := .txAnswer .ok :: es } = .next { r with events := es } ∧
      (∀ k : Fin 9, step { q with events := .txAnswer (.fail k) :: es } =
        .next { q with
          events := es, cuPhase := .idle, respLog := s.respLog ++ [.transportError]
          txLog := s.txLog ++ f.bytes.take k.val }) ∧
      step { r with events := .txAnswer .ok :: es } =
        .next { r with
          events := es, cuPhase := .idle, respLog := s.respLog ++ [.ok]
          txLog := s.txLog ++ f.bytes ++ g.bytes } ∧
      ∀ k : Fin 9, step { r with events := .txAnswer (.fail k) :: es } =
        .next { r with
          events := es, cuPhase := .idle, respLog := s.respLog ++ [.transportError]
          txLog := s.txLog ++ f.bytes ++ g.bytes.take k.val })

/-- R122: SET and PULSE with an index above 3, as command words: RESP INVALID_INDEX, and no frame is built or
written. -/
def Obligations.IndexAboveThreeRejected : Prop :=
  ∀ (s : State) (w : CmdWord) (es : List Event), s.events = .cmd w :: es → s.cuPhase = .idle →
    (w.toNat % 4 = 1 ∨ w.toNat % 4 = 2) → 3 < w.toNat / 256 →
    step s = .next { s with events := es, respLog := s.respLog ++ [.invalidIndex] }

/-- R85 and R123: the reserved code is INVALID_COMMAND, whatever the other fields hold, and nothing else happens. -/
def Obligations.ReservedCommandRejected : Prop :=
  ∀ (s : State) (idx : Byte) (rsv : BitVec 5) (d : Bool), s.cuPhase = .idle →
    exec (.rsvd idx rsv d) s = .next { s with respLog := s.respLog ++ [.invalidCommand] }

/-- R126: the priority of errors, for every command word, and the one drop of an inbound frame whichever condition
fails. -/
def Obligations.ErrorPriority : Prop :=
  (∀ (s : State) (w : CmdWord) (es : List Event), s.events = .cmd w :: es → s.cuPhase = .idle →
    ∃ t, step s = .next t ∧ t.txLog = s.txLog ∧
      if w.toNat % 4 = 3 then t.respLog = s.respLog ++ [.invalidCommand] ∧ t.cuPhase = .idle
      else if w.toNat % 4 ≠ 0 ∧ 3 < w.toNat / 256 then
        t.respLog = s.respLog ++ [.invalidIndex] ∧ t.cuPhase = .idle
      else t.respLog = s.respLog ∧ t.cuPhase = .wait1 ∧
        ∀ k : Fin 9, ∃ u, step { t with events := [.txAnswer (.fail k)] } = .next u ∧
          u.respLog = s.respLog ++ [.transportError] ∧ u.cuPhase = .idle) ∧
  (∀ (s : State) (b : Byte), s.rxCnt = 7 →
    s.rxBuf[0] ≠ s.params.inboundMarker ∨ chkOk s.params.checksumRule (s.completedFrame b) = false →
    exec (.rxByte b) s = .next { s with rxCnt := 0 })

/-- R72: the reserved encodings are rejected with no byte written, and the ignored fields change nothing. -/
def Obligations.IgnoredFieldsChangeNothing : Prop :=
  ∀ (s : State) (idx idx' : Byte) (rsv rsv' : BitVec 5) (d d' : Bool) (want : Desired), s.cuPhase = .idle →
    exec (.query idx rsv d) s = exec (.query idx' rsv' d') s ∧
    exec (.set idx rsv want) s = exec (.set idx rsv' want) s ∧
    exec (.pulse idx rsv d) s = exec (.pulse idx rsv' d') s ∧
    exec (.rsvd idx rsv d) s = exec (.rsvd idx' rsv' d') s ∧
    exec (.rsvd idx rsv d) s = .next { s with respLog := s.respLog ++ [.invalidCommand] } ∧
    (3 < idx.toNat →
      exec (.set idx rsv want) s = .next { s with respLog := s.respLog ++ [.invalidIndex] } ∧
      exec (.pulse idx rsv d) s = .next { s with respLog := s.respLog ++ [.invalidIndex] })

/-- The CMD port (40 section 1). In IDLE a presented command is accepted, by the arm its OP selects; otherwise every
command, QUERY too, is held as it is, with no other effect; of the held commands any may be accepted next, only in IDLE;
and every step that answers a command returns to IDLE. The list on the port and the turn `accept n`, which is lost while
the unit is busy, are the model's (log 3, DESIGN CHOICE, unsafe). -/
def Obligations.CommandPortSerialises : Prop :=
  (∀ (s : State) (w : CmdWord) (es : List Event), s.events = .cmd w :: es →
    (s.cuPhase = .idle →
      step s = exec (decodeCmd w) { s with events := es } ∧ ∃ t, step s = .next t ∧ t.cmdPort = s.cmdPort) ∧
    (s.cuPhase ≠ .idle → step s = .next { s with events := es, cmdPort := s.cmdPort ++ [w] })) ∧
  (∀ (s : State) (n : Nat) (w : CmdWord) (es : List Event), s.events = .accept n :: es →
    (s.cuPhase = .idle → s.cmdPort[n]? = some w →
      step s = exec (decodeCmd w) { s with events := es, cmdPort := s.cmdPort.eraseIdx n }) ∧
    (s.cuPhase ≠ .idle → step s = .next { s with events := es })) ∧
  (∀ s t : State, step s = .next t → t.respLog ≠ s.respLog → t.cuPhase = .idle)

/-- QUERY, SET, PULSE and RSVD in any phase change no decoder state, no wire byte and no configuration; while a command
is in flight they change only the list of held commands. -/
def Obligations.HostCommandFrame : Prop :=
  ∀ (s t : State) (i : Instr) (w : CmdWord), decodeCmd w = i → exec i s = .next t →
    t.rxCnt = s.rxCnt ∧ t.rxBuf = s.rxBuf ∧ t.txLog = s.txLog ∧ t.statusLog = s.statusLog ∧ t.params = s.params ∧
    t.events = s.events ∧ t.draws = s.draws ∧
    (s.cuPhase = .idle → t.cmdPort = s.cmdPort) ∧
    (s.cuPhase ≠ .idle → t = { s with cmdPort := s.cmdPort ++ [w] })

/-- FRAME_QUERY, FRAME_SET_OPEN_0 to 3 and FRAME_SET_CLOSED complete when their frame is the one on offer: its eight
bytes reach the wire and either the Closed frame of a PULSE is offered or the command ends with RESP OK (40 section 1;
the reading of these rows is the model's, log 4). -/
def Obligations.OutboundFramesGoOut : Prop :=
  ∀ q ∈ ([(.frameQuery, ⟨0x55, 0x01, 0x00, 0x00, 0x00, 0x00, 0x00, 0x56⟩),
          (.frameSetOpen0, ⟨0x55, 0x01, 0x01, 0x02, 0x01, 0x01, 0x01, 0x5C⟩),
          (.frameSetOpen1, ⟨0x55, 0x01, 0x01, 0x01, 0x02, 0x01, 0x01, 0x5C⟩),
          (.frameSetOpen2, ⟨0x55, 0x01, 0x01, 0x01, 0x01, 0x02, 0x01, 0x5C⟩),
          (.frameSetOpen3, ⟨0x55, 0x01, 0x01, 0x01, 0x01, 0x01, 0x02, 0x5C⟩),
          (.frameSetClosed, ⟨0x55, 0x01, 0x01, 0x01, 0x01, 0x01, 0x01, 0x5B⟩)] : List (Instr × Frame)),
    ∀ s : State, s.cuPhase ≠ .idle → s.cuFrame = q.2 →
      exec q.1 s =
        if s.cuPhase = .wait1 ∧ s.cuOp = .pulse then
          .next { s with
            txLog := s.txLog ++ q.2.bytes, cuFrame := setFrame s.cuIdx .closedReq, cuPhase := .wait2 }
        else .next { s with txLog := s.txLog ++ q.2.bytes, respLog := s.respLog ++ [.ok], cuPhase := .idle }

/-- An outbound row whose frame is not on offer leaves everything unchanged (the model's choice, log 5). -/
def Obligations.FrameNotOfferedUnchanged : Prop :=
  ∀ (s : State) (i : Instr) (f : Frame), decodeTx f = some i → s.cuPhase = .idle ∨ s.cuFrame ≠ f →
    exec i s = .next s

/-- The OK answer to any pending write, whatever frame is offered (40 section 1). -/
def Obligations.AnswerOkTaken : Prop :=
  ∀ (s : State) (es : List Event), s.events = .txAnswer .ok :: es → s.cuPhase ≠ .idle →
    step s =
      if s.cuPhase = .wait1 ∧ s.cuOp = .pulse then
        .next { s with
          events := es, txLog := s.txLog ++ s.cuFrame.bytes, cuFrame := setFrame s.cuIdx .closedReq, cuPhase := .wait2 }
      else
        .next { s with
          events := es, txLog := s.txLog ++ s.cuFrame.bytes, respLog := s.respLog ++ [.ok], cuPhase := .idle }

/-- R121: FAIL(k) gives TRANSPORT_ERROR and IDLE; nothing is offered again, and a PULSE's second frame is not
written. -/
def Obligations.FailedWriteReported : Prop :=
  ∀ (s : State) (k : Fin 9) (es : List Event), s.events = .txAnswer (.fail k) :: es → s.cuPhase ≠ .idle →
    step s =
      .next { s with
        events := es, txLog := s.txLog ++ s.cuFrame.bytes.take k.val
        respLog := s.respLog ++ [.transportError], cuPhase := .idle }

/-- With no write pending an answer is not taken (60 section 2, 70 section 1; the model's reading, log 7). -/
def Obligations.AnswerNotTakenWhileIdle : Prop :=
  ∀ (s : State) (a : TxAnswer) (es : List Event), s.events = .txAnswer a :: es → s.cuPhase = .idle →
    step s = .next { s with events := es }

/-- R91: an instruction of the command unit, and an answer OK or FAIL(k) to its write, change no decoder state and emit
no STATUS; their only outputs are bytes appended to the wire and RESP events. -/
def Obligations.CommandUnitFrame : Prop :=
  (∀ (i : Instr) (s t : State), ofCommandUnit i = true → exec i s = .next t →
    t.rxCnt = s.rxCnt ∧ t.rxBuf = s.rxBuf ∧ t.statusLog = s.statusLog ∧ t.params = s.params ∧
    t.events = s.events ∧ t.draws = s.draws ∧ s.txLog <+: t.txLog ∧ s.respLog <+: t.respLog) ∧
  (∀ (s t : State) (a : TxAnswer) (es : List Event), s.events = .txAnswer a :: es → step s = .next t →
    t.rxCnt = s.rxCnt ∧ t.rxBuf = s.rxBuf ∧ t.statusLog = s.statusLog ∧ t.params = s.params ∧
    t.events = es ∧ t.draws = s.draws ∧ t.cmdPort = s.cmdPort ∧ s.txLog <+: t.txLog ∧ s.respLog <+: t.respLog)

/-- What the command unit keeps true: the frame on offer is the one its command writes in that phase, and the outbound
wire holds nothing but outbound frames, whole or cut off, one after the other (20 section 3, 40 sections 1 to 3). -/
def Obligations.CommandSideKept : Prop :=
  ∀ s t : State, s.CommandSide → step s = .next t → t.CommandSide

/-- It holds right after reset. -/
def Obligations.CommandSideAtReset : Prop :=
  State.reset.CommandSide

/-- R149: while nothing answers the pending write and no reset comes, the unit stays where it is for any number of
steps, nothing more reaches the wire, no RESP is given, and later commands wait on the port; a reset frees the unit. -/
def Obligations.UnansweredWriteHolds : Prop :=
  (∀ (n : Nat) (s : State), s.cuPhase ≠ .idle → (∀ e ∈ s.events, leavesWritePending e = true) →
    ∃ t, stepN n s = .next t ∧ t.cuPhase = s.cuPhase ∧ t.cuOp = s.cuOp ∧ t.cuIdx = s.cuIdx ∧ t.cuFrame = s.cuFrame ∧
      t.txLog = s.txLog ∧ t.respLog = s.respLog ∧
      t.cmdPort ++ presentedWords t.events = s.cmdPort ++ presentedWords s.events) ∧
  (∀ (s : State) (k : Fin 9) (es : List Event), s.events = .reset k :: es →
    ∃ t, step s = .next t ∧ t.cuPhase = .idle)

/-- R48: whatever commands, turns and inbound bytes come before and between the two answers, a PULSE's two frames are
contiguous on the wire, and it gives one RESP. -/
def Obligations.PulseFramesContiguous : Prop :=
  ∀ (s : State) (w : CmdWord) (idx : Byte) (rsv : BitVec 5) (d : Bool) (es₁ es₂ : List Event),
    s.cuPhase = .idle → decodeCmd w = .pulse idx rsv d → idx.toNat ≤ 3 →
    (∀ e ∈ es₁, leavesWritePending e = true) → (∀ e ∈ es₂, leavesWritePending e = true) →
    s.events = .cmd w :: es₁ ++ .txAnswer .ok :: es₂ ++ [.txAnswer .ok] →
    ∃ n t, stepN n s = .next t ∧ t.events = [] ∧ t.cuPhase = .idle ∧ t.respLog = s.respLog ++ [.ok] ∧
      t.txLog = s.txLog ++ (setFrame (idx.setWidth 2) .openReq).bytes ++
        (setFrame (idx.setWidth 2) .closedReq).bytes

/-- R77: a PULSE puts on the wire what SET Open and then SET Closed put there; it gives one RESP, not two; a command
presented between its frames waits; and after a failed first write the second frame is not written. -/
def Obligations.PulseAgainstTwoSets : Prop :=
  ∀ (s : State) (idx : Byte) (rsv : BitVec 5), s.cuPhase = .idle → idx.toNat ≤ 3 →
    let pulse := Event.cmd (cmdWord idx rsv false 2)
    (∃ t u, stepN 3 { s with events := [pulse, .txAnswer .ok, .txAnswer .ok] } = .next t ∧
      stepN 4 { s with
        events := [.cmd (cmdWord idx rsv true 1), .txAnswer .ok, .cmd (cmdWord idx rsv false 1), .txAnswer .ok] } =
        .next u ∧
      t.txLog = u.txLog ∧
      t.txLog = s.txLog ++ (setFrame (idx.setWidth 2) .openReq).bytes ++ (setFrame (idx.setWidth 2) .closedReq).bytes ∧
      t.cuPhase = u.cuPhase ∧ t.respLog = s.respLog ++ [.ok] ∧ u.respLog = s.respLog ++ [.ok, .ok]) ∧
    (∀ w : CmdWord, ∃ t, stepN 3 { s with events := [pulse, .txAnswer .ok, .cmd w] } = .next t ∧
      t.cuPhase = .wait2 ∧ t.cmdPort = s.cmdPort ++ [w] ∧
      t.txLog = s.txLog ++ (setFrame (idx.setWidth 2) .openReq).bytes) ∧
    (∀ k : Fin 9, ∃ t, stepN 2 { s with events := [pulse, .txAnswer (.fail k)] } = .next t ∧ t.cuPhase = .idle ∧
      t.txLog = s.txLog ++ (setFrame (idx.setWidth 2) .openReq).bytes.take k.val ∧
      t.respLog = s.respLog ++ [.transportError])

/-- The numbers of the response codes (60 section 1). -/
def Obligations.ResponseCodeNumbers : Prop :=
  RespCode.code .ok = 0 ∧ RespCode.code .transportError = 1 ∧ RespCode.code .invalidIndex = 2 ∧
  RespCode.code .invalidCommand = 3

/-! ### The frame decoder -/

/-- R101: a byte that does not complete a frame is stored and counted, whatever its value, and nothing else
changes. -/
def Obligations.ByteAccumulates : Prop :=
  ∀ (s : State) (b : Byte) (h : s.rxCnt.toNat < 7),
    exec (.rxByte b) s = .next { s with rxBuf := s.rxBuf.set s.rxCnt.toNat b, rxCnt := s.rxCnt + 1 }

/-- R102, R104 and R105: the byte that completes a frame returns the count to 0; a valid frame gives exactly one STATUS,
each lane closed iff its own byte is 0x02; an invalid one leaves no trace. -/
def Obligations.ByteCompletesFrame : Prop :=
  ∀ (s : State) (b : Byte), s.rxCnt = 7 →
    let f : Frame :=
      ⟨s.rxBuf[0], s.rxBuf[1], s.rxBuf[2], s.rxBuf[3], s.rxBuf[4], s.rxBuf[5], s.rxBuf[6], b⟩
    exec (.rxByte b) s =
      if valid s.params f then
        .next { s with
          rxCnt := 0
          statusLog := s.statusLog ++
            [⟨decide (f.b3 = 0x02), decide (f.b4 = 0x02), decide (f.b5 = 0x02), decide (f.b6 = 0x02)⟩] }
      else .next { s with rxCnt := 0 }

/-- R67: valid iff the marker is the inbound marker and the checksum of the rule in force holds; no other byte is
checked. -/
def Obligations.ValidityRule : Prop :=
  ∀ (p : Params) (f : Frame),
    valid p f = true ↔
      f.b0 = p.inboundMarker ∧
      match p.checksumRule with
      | .mod256 =>
        (f.b0.toNat + f.b1.toNat + f.b2.toNat + f.b3.toNat + f.b4.toNat + f.b5.toNat + f.b6.toNat) % 256 = f.b7.toNat
      | .signedWide =>
        f.b0.toInt + f.b1.toInt + f.b2.toInt + f.b3.toInt + f.b4.toInt + f.b5.toInt + f.b6.toInt = f.b7.toInt

/-- R106: bytes 1 and 2 of an inbound frame take part only in the checksum: with any values c1 and c2 of them held, the
byte that completes the frame dispatches it iff marker and checksum pass, and the vector does not depend on them. -/
def Obligations.BytesOneTwoUnchecked : Prop :=
  ∀ (s : State) (f : Frame) (c1 c2 : Byte), s.rxCnt = 7 →
    s.rxBuf = #v[f.b0, c1, c2, f.b3, f.b4, f.b5, f.b6] →
    let g : Frame := { f with b1 := c1, b2 := c2 }
    ∃ t, exec (.rxByte f.b7) s = .next t ∧ t.rxCnt = 0 ∧
      t.statusLog =
        if f.b0 = s.params.inboundMarker ∧ chkOk s.params.checksumRule g = true then
          s.statusLog ++ [relayVector f]
        else s.statusLog

/-- A whole inbound frame on a frame boundary: its eight bytes take eight steps, and the frame is validated and
dispatched, or dropped (41 sections 1 to 4). -/
def Obligations.StatusFrameOnBoundary : Prop :=
  ∀ (s : State) (f : Frame) (es : List Event), s.rxCnt = 0 → s.events = .rx f.bytes :: es →
    stepN 8 s =
      .next { s with
        events := es
        rxBuf := #v[f.b0, f.b1, f.b2, f.b3, f.b4, f.b5, f.b6]
        statusLog := if valid s.params f then s.statusLog ++ [relayVector f] else s.statusLog }

/-- A whole frame delivered at any position of the current frame: its bytes complete the window that the held bytes
began, that window gives a STATUS iff it is valid as it stands, and the bytes after the window are held (the spec derives
this in 20 section 3). -/
def Obligations.StatusFrameAtAnyPosition : Prop :=
  ∀ (s : State) (f : Frame) (es : List Event), s.events = .rx f.bytes :: es →
    ∃ t, stepN 8 s = .next t ∧ t.events = es ∧ t.rxCnt = s.rxCnt ∧
      t.statusLog = s.statusLog ++ streamStatus s.params (s.rxBuf.toList.take s.rxCnt.toNat ++ f.bytes) ∧
      ∀ j : Fin 7, j.val < s.rxCnt.toNat → f.bytes[8 - s.rxCnt.toNat + j.val]? = some t.rxBuf[j]

/-- FRAME_STATUS completes where its frame does: with its first seven bytes held, its eighth is delivered, and the frame
is validated and dispatched, or dropped (41 sections 1 to 3; that the row is this one step is the model's reading,
log 6). -/
def Obligations.StatusFrameCompletes : Prop :=
  ∀ (s : State) (f : Frame), s.rxCnt = 7 → s.rxBuf = #v[f.b0, f.b1, f.b2, f.b3, f.b4, f.b5, f.b6] →
    exec (.frameStatus f) s =
      if valid s.params f then .next { s with rxCnt := 0, statusLog := s.statusLog ++ [relayVector f] }
      else .next { s with rxCnt := 0 }

/-- FRAME_STATUS where its frame does not complete leaves everything unchanged (the model's choice, log 5). -/
def Obligations.StatusFrameNotCompletingUnchanged : Prop :=
  ∀ (s : State) (f : Frame), s.rxCnt ≠ 7 ∨ s.rxBuf ≠ #v[f.b0, f.b1, f.b2, f.b3, f.b4, f.b5, f.b6] →
    exec (.frameStatus f) s = .next s

/-- A notification of n bytes, n at least 1, is n steps, and has the effect of n RX_BYTE deliveries in order, in every
state; one of no byte is one step with no effect (the spec derives the effect in 41 section 4). -/
def Obligations.ChunkIsBytesInOrder : Prop :=
  ∀ (s : State) (bytes : List Byte) (es : List Event), s.events = .rx bytes :: es →
    stepN (max bytes.length 1) s =
      bytes.foldl
        (fun o b =>
          match o with
          | .next t => exec (.rxByte b) t
          | .fault r => .fault r
          | .refused r => .refused r)
        (.next { s with events := es })

/-- R100: each delivered byte is one step, RX_BYTE of that byte, in every state of the block; the bytes of a notification
are taken one a step, in stream order, the rest staying next. -/
def Obligations.EveryByteIsOneStep : Prop :=
  ∀ (s : State) (b : Byte) (rest : List Byte) (es : List Event), s.events = .rx (b :: rest) :: es →
    let t : State := { s with events := if rest = [] then es else .rx rest :: es }
    step s = exec (.rxByte b) t ∧ ∃ u, exec (.rxByte b) t = .next u

/-- The decoder cuts the stream at multiples of eight bytes since reset, whatever the bytes hold, and gives one STATUS
per valid frame in stream order, one byte a step; the count is the stream's length mod 8 (the spec derives this in 20
sections 3 and 4). -/
def Obligations.StreamCutInEights : Prop :=
  ∀ (s : State) (bytes : List Byte) (es : List Event), s.events = .rx bytes :: es → s.rxCnt = 0 →
    ∃ t, stepN (max bytes.length 1) s = .next t ∧ t.events = es ∧
      t.statusLog = s.statusLog ++ streamStatus s.params bytes ∧
      t.rxCnt.toNat = bytes.length % 8 ∧ t.txLog = s.txLog ∧ t.respLog = s.respLog

/-- An outbound frame looped back to a decoder on a frame boundary is dropped, for every inbound marker but 0x55 and
under both checksum rules (the spec derives this in 41 section 4). -/
def Obligations.LoopedBackFrameDropped : Prop :=
  ∀ (s : State) (f : Frame) (es : List Event), f ∈ outboundFrames → s.rxCnt = 0 → s.params.inboundMarker ≠ 0x55 →
    s.events = .rx f.bytes :: es →
    ∃ t, stepN 8 s = .next t ∧ t.events = es ∧ t.rxCnt = 0 ∧ t.statusLog = s.statusLog

/-- R62: the checksum is the sum of bytes 0 to 6 mod 256, it decides the MOD256 check, and every outbound frame carries
it in byte 7. -/
def Obligations.ChecksumMod256 : Prop :=
  (∀ f : Frame, (chk f).toNat =
    (f.b0.toNat + f.b1.toNat + f.b2.toNat + f.b3.toNat + f.b4.toNat + f.b5.toNat + f.b6.toNat) % 256) ∧
  (∀ f : Frame, chkOk .mod256 f = true ↔ chk f = f.b7) ∧
  (∀ f ∈ outboundFrames, f.b7 = chk f) ∧ (∀ (idx : BitVec 2) (d : Desired), setFrame idx d ∈ outboundFrames)

/-- R63: the SIGNED_WIDE check; a frame that passes it passes MOD256, not conversely; the two agree on outbound
frames. -/
def Obligations.SignedWideAgainstMod256 : Prop :=
  (∀ f : Frame, chkOk .signedWide f = true ↔
    f.b0.toInt + f.b1.toInt + f.b2.toInt + f.b3.toInt + f.b4.toInt + f.b5.toInt + f.b6.toInt = f.b7.toInt) ∧
  (∀ f : Frame, chkOk .signedWide f = true → chkOk .mod256 f = true) ∧
  (∃ f : Frame, chkOk .mod256 f = true ∧ chkOk .signedWide f = false) ∧
  (∀ f ∈ outboundFrames, chkOk .mod256 f = chkOk .signedWide f)

/-- The two checksum rules differ on a frame exactly when the mod-256 check passes and the signed sum is outside
-128..127 (the spec derives this in 70 section 3). -/
def Obligations.ChecksumRulesDifferExactly : Prop :=
  ∀ f : Frame, chkOk .mod256 f ≠ chkOk .signedWide f ↔
    chk f = f.b7 ∧
    let sum := f.b0.toInt + f.b1.toInt + f.b2.toInt + f.b3.toInt + f.b4.toInt + f.b5.toInt + f.b6.toInt
    sum < -128 ∨ 127 < sum

/-- R69: the packed form of the relay-state vector. -/
def Obligations.VectorPacking : Prop :=
  (∀ v : RelayVector,
    v.packed.toNat = v.v3.toNat * 8 + v.v2.toNat * 4 + v.v1.toNat * 2 + v.v0.toNat ∧
    v.packed.getLsbD 0 = v.v0 ∧ v.packed.getLsbD 1 = v.v1 ∧ v.packed.getLsbD 2 = v.v2 ∧ v.packed.getLsbD 3 = v.v3) ∧
  RelayVector.packed ⟨true, false, false, false⟩ = 0x1

/-- R24: between two steps the decoder is Idle iff `rx_cnt` is 0 and Accumulating iff it is 1..7, never in Dispatch. -/
def Obligations.DecoderPhases : Prop :=
  ∀ s : State, (s.decoderPhase = .idle ↔ s.rxCnt = 0) ∧
    (s.decoderPhase = .accumulating ↔ 1 ≤ s.rxCnt.toNat ∧ s.rxCnt.toNat ≤ 7) ∧ s.decoderPhase ≠ .dispatch

/-- RX_BYTE and FRAME_STATUS change the decoder's two elements and append STATUS events, nothing else (the spec derives
this in 10 section 5). -/
def Obligations.DecoderFrame : Prop :=
  ∀ (i : Instr) (s t : State), ofCommandUnit i = false → exec i s = .next t →
    t.cuPhase = s.cuPhase ∧ t.cuOp = s.cuOp ∧ t.cuIdx = s.cuIdx ∧ t.cuFrame = s.cuFrame ∧ t.txLog = s.txLog ∧
    t.respLog = s.respLog ∧ t.params = s.params ∧ t.cmdPort = s.cmdPort ∧ t.events = s.events ∧ t.draws = s.draws ∧
    s.statusLog <+: t.statusLog

/-- The block is the same with and without a consumer; a bound consumer gets the STATUS events, and with none they are
lost (41 section 3). That status_log records what is emitted, and what a consumer then sees of it, is the model's form
(log 17, DESIGN CHOICE, unsafe). -/
def Obligations.ObserverChangesNothing : Prop :=
  (∀ (s t : State) (b : Bool), step s = .next t →
    step { s with params := { s.params with observer := b } } =
      .next { t with params := { t.params with observer := b } }) ∧
  (∀ s : State, s.params.observer = true → s.consumerSees = s.statusLog) ∧
  (∀ s : State, s.params.observer = false → s.consumerSees = [])

/-! ### The whole block -/

/-- The two units are independent: a script of commands, turns, answers and single inbound bytes ends in the same state
as the script that runs all of the command unit's events first, so in every interleaving (the spec derives this in 10
section 5 and 20 section 4). -/
def Obligations.InterleavingsAgree : Prop :=
  ∀ (s : State) (es : List Event), (∀ e ∈ es, commandEvent e = true ∨ ∃ b, e = .rx [b]) →
    stepN es.length { s with events := es } =
      stepN es.length { s with events := es.filter commandEvent ++ es.filter fun e => !commandEvent e }

/-- What no rule reads never shows: states that differ only there step to states that differ only there, with equal
logs (the spec derives this in 10 section 6). -/
def Obligations.DeadValuesNeverShow : Prop :=
  ∀ s t : State, SameLive s t → ∃ s' t', step s = .next s' ∧ step t = .next t' ∧ SameLive s' t'

/-- What the reference software notifies, in any chunking, is a prefix of the block's STATUS events for the same bytes,
and it can be a strict one (41 section 4; the reference's decoder is the model's reading, log 21). -/
def Obligations.ReferenceIsPrefix : Prop :=
  (∀ (s : State) (chunks : List (List Byte)), s.rxCnt = 0 → s.statusLog = [] → s.events = [.rx chunks.flatten] →
    ∃ n t, stepN n s = .next t ∧ t.events = [] ∧ (referenceRun s.params chunks).notified <+: t.statusLog) ∧
  (∃ chunks : List (List Byte),
    (referenceRun Params.spec chunks).notified ≠ streamStatus Params.spec chunks.flatten)
end

