-- ==== Sys2Proof/Laws/State.lean ====
section
/-! SUPPORT. One lemma per field per update of the state, each by rfl, so that no proof unfolds a record update. -/

namespace Sys2Proof.Machine

@[simp] theorem raise_eq_respond (c : RespCode) (s : State) : s.raise c = s.respond c := rfl

@[simp] theorem respond_rxCnt (c : RespCode) (s : State) : (s.respond c).rxCnt = s.rxCnt := rfl
@[simp] theorem respond_rxBuf (c : RespCode) (s : State) : (s.respond c).rxBuf = s.rxBuf := rfl
@[simp] theorem respond_cuPhase (c : RespCode) (s : State) : (s.respond c).cuPhase = s.cuPhase := rfl
@[simp] theorem respond_cuOp (c : RespCode) (s : State) : (s.respond c).cuOp = s.cuOp := rfl
@[simp] theorem respond_cuIdx (c : RespCode) (s : State) : (s.respond c).cuIdx = s.cuIdx := rfl
@[simp] theorem respond_cuFrame (c : RespCode) (s : State) : (s.respond c).cuFrame = s.cuFrame := rfl
@[simp] theorem respond_txLog (c : RespCode) (s : State) : (s.respond c).txLog = s.txLog := rfl
@[simp] theorem respond_statusLog (c : RespCode) (s : State) : (s.respond c).statusLog = s.statusLog := rfl
@[simp] theorem respond_respLog (c : RespCode) (s : State) : (s.respond c).respLog = s.respLog ++ [c] := rfl
@[simp] theorem respond_params (c : RespCode) (s : State) : (s.respond c).params = s.params := rfl
@[simp] theorem respond_cmdPort (c : RespCode) (s : State) : (s.respond c).cmdPort = s.cmdPort := rfl
@[simp] theorem respond_events (c : RespCode) (s : State) : (s.respond c).events = s.events := rfl
@[simp] theorem respond_draws (c : RespCode) (s : State) : (s.respond c).draws = s.draws := rfl

@[simp] theorem emitStatus_rxCnt (v : RelayVector) (s : State) : (s.emitStatus v).rxCnt = s.rxCnt := rfl
@[simp] theorem emitStatus_rxBuf (v : RelayVector) (s : State) : (s.emitStatus v).rxBuf = s.rxBuf := rfl
@[simp] theorem emitStatus_cuPhase (v : RelayVector) (s : State) : (s.emitStatus v).cuPhase = s.cuPhase := rfl
@[simp] theorem emitStatus_cuOp (v : RelayVector) (s : State) : (s.emitStatus v).cuOp = s.cuOp := rfl
@[simp] theorem emitStatus_cuIdx (v : RelayVector) (s : State) : (s.emitStatus v).cuIdx = s.cuIdx := rfl
@[simp] theorem emitStatus_cuFrame (v : RelayVector) (s : State) : (s.emitStatus v).cuFrame = s.cuFrame := rfl
@[simp] theorem emitStatus_txLog (v : RelayVector) (s : State) : (s.emitStatus v).txLog = s.txLog := rfl
@[simp] theorem emitStatus_statusLog (v : RelayVector) (s : State) : (s.emitStatus v).statusLog = s.statusLog ++ [v] := rfl
@[simp] theorem emitStatus_respLog (v : RelayVector) (s : State) : (s.emitStatus v).respLog = s.respLog := rfl
@[simp] theorem emitStatus_params (v : RelayVector) (s : State) : (s.emitStatus v).params = s.params := rfl
@[simp] theorem emitStatus_cmdPort (v : RelayVector) (s : State) : (s.emitStatus v).cmdPort = s.cmdPort := rfl
@[simp] theorem emitStatus_events (v : RelayVector) (s : State) : (s.emitStatus v).events = s.events := rfl
@[simp] theorem emitStatus_draws (v : RelayVector) (s : State) : (s.emitStatus v).draws = s.draws := rfl

@[simp] theorem appendTx_rxCnt (bytes : List Byte) (s : State) : (s.appendTx bytes).rxCnt = s.rxCnt := rfl
@[simp] theorem appendTx_rxBuf (bytes : List Byte) (s : State) : (s.appendTx bytes).rxBuf = s.rxBuf := rfl
@[simp] theorem appendTx_cuPhase (bytes : List Byte) (s : State) : (s.appendTx bytes).cuPhase = s.cuPhase := rfl
@[simp] theorem appendTx_cuOp (bytes : List Byte) (s : State) : (s.appendTx bytes).cuOp = s.cuOp := rfl
@[simp] theorem appendTx_cuIdx (bytes : List Byte) (s : State) : (s.appendTx bytes).cuIdx = s.cuIdx := rfl
@[simp] theorem appendTx_cuFrame (bytes : List Byte) (s : State) : (s.appendTx bytes).cuFrame = s.cuFrame := rfl
@[simp] theorem appendTx_txLog (bytes : List Byte) (s : State) : (s.appendTx bytes).txLog = s.txLog ++ bytes := rfl
@[simp] theorem appendTx_statusLog (bytes : List Byte) (s : State) : (s.appendTx bytes).statusLog = s.statusLog := rfl
@[simp] theorem appendTx_respLog (bytes : List Byte) (s : State) : (s.appendTx bytes).respLog = s.respLog := rfl
@[simp] theorem appendTx_params (bytes : List Byte) (s : State) : (s.appendTx bytes).params = s.params := rfl
@[simp] theorem appendTx_cmdPort (bytes : List Byte) (s : State) : (s.appendTx bytes).cmdPort = s.cmdPort := rfl
@[simp] theorem appendTx_events (bytes : List Byte) (s : State) : (s.appendTx bytes).events = s.events := rfl
@[simp] theorem appendTx_draws (bytes : List Byte) (s : State) : (s.appendTx bytes).draws = s.draws := rfl

@[simp] theorem txWrite_rxCnt (f : Frame) (s : State) : (s.txWrite f).rxCnt = s.rxCnt := rfl
@[simp] theorem txWrite_rxBuf (f : Frame) (s : State) : (s.txWrite f).rxBuf = s.rxBuf := rfl
@[simp] theorem txWrite_cuPhase (f : Frame) (s : State) : (s.txWrite f).cuPhase = s.cuPhase := rfl
@[simp] theorem txWrite_cuOp (f : Frame) (s : State) : (s.txWrite f).cuOp = s.cuOp := rfl
@[simp] theorem txWrite_cuIdx (f : Frame) (s : State) : (s.txWrite f).cuIdx = s.cuIdx := rfl
@[simp] theorem txWrite_cuFrame (f : Frame) (s : State) : (s.txWrite f).cuFrame = f := rfl
@[simp] theorem txWrite_txLog (f : Frame) (s : State) : (s.txWrite f).txLog = s.txLog := rfl
@[simp] theorem txWrite_statusLog (f : Frame) (s : State) : (s.txWrite f).statusLog = s.statusLog := rfl
@[simp] theorem txWrite_respLog (f : Frame) (s : State) : (s.txWrite f).respLog = s.respLog := rfl
@[simp] theorem txWrite_params (f : Frame) (s : State) : (s.txWrite f).params = s.params := rfl
@[simp] theorem txWrite_cmdPort (f : Frame) (s : State) : (s.txWrite f).cmdPort = s.cmdPort := rfl
@[simp] theorem txWrite_events (f : Frame) (s : State) : (s.txWrite f).events = s.events := rfl
@[simp] theorem txWrite_draws (f : Frame) (s : State) : (s.txWrite f).draws = s.draws := rfl

@[simp] theorem setPhase_rxCnt (ph : CuPhase) (s : State) : (s.setPhase ph).rxCnt = s.rxCnt := rfl
@[simp] theorem setPhase_rxBuf (ph : CuPhase) (s : State) : (s.setPhase ph).rxBuf = s.rxBuf := rfl
@[simp] theorem setPhase_cuPhase (ph : CuPhase) (s : State) : (s.setPhase ph).cuPhase = ph := rfl
@[simp] theorem setPhase_cuOp (ph : CuPhase) (s : State) : (s.setPhase ph).cuOp = s.cuOp := rfl
@[simp] theorem setPhase_cuIdx (ph : CuPhase) (s : State) : (s.setPhase ph).cuIdx = s.cuIdx := rfl
@[simp] theorem setPhase_cuFrame (ph : CuPhase) (s : State) : (s.setPhase ph).cuFrame = s.cuFrame := rfl
@[simp] theorem setPhase_txLog (ph : CuPhase) (s : State) : (s.setPhase ph).txLog = s.txLog := rfl
@[simp] theorem setPhase_statusLog (ph : CuPhase) (s : State) : (s.setPhase ph).statusLog = s.statusLog := rfl
@[simp] theorem setPhase_respLog (ph : CuPhase) (s : State) : (s.setPhase ph).respLog = s.respLog := rfl
@[simp] theorem setPhase_params (ph : CuPhase) (s : State) : (s.setPhase ph).params = s.params := rfl
@[simp] theorem setPhase_cmdPort (ph : CuPhase) (s : State) : (s.setPhase ph).cmdPort = s.cmdPort := rfl
@[simp] theorem setPhase_events (ph : CuPhase) (s : State) : (s.setPhase ph).events = s.events := rfl
@[simp] theorem setPhase_draws (ph : CuPhase) (s : State) : (s.setPhase ph).draws = s.draws := rfl

@[simp] theorem hold_rxCnt (w : CmdWord) (s : State) : (s.hold w).rxCnt = s.rxCnt := rfl
@[simp] theorem hold_rxBuf (w : CmdWord) (s : State) : (s.hold w).rxBuf = s.rxBuf := rfl
@[simp] theorem hold_cuPhase (w : CmdWord) (s : State) : (s.hold w).cuPhase = s.cuPhase := rfl
@[simp] theorem hold_cuOp (w : CmdWord) (s : State) : (s.hold w).cuOp = s.cuOp := rfl
@[simp] theorem hold_cuIdx (w : CmdWord) (s : State) : (s.hold w).cuIdx = s.cuIdx := rfl
@[simp] theorem hold_cuFrame (w : CmdWord) (s : State) : (s.hold w).cuFrame = s.cuFrame := rfl
@[simp] theorem hold_txLog (w : CmdWord) (s : State) : (s.hold w).txLog = s.txLog := rfl
@[simp] theorem hold_statusLog (w : CmdWord) (s : State) : (s.hold w).statusLog = s.statusLog := rfl
@[simp] theorem hold_respLog (w : CmdWord) (s : State) : (s.hold w).respLog = s.respLog := rfl
@[simp] theorem hold_params (w : CmdWord) (s : State) : (s.hold w).params = s.params := rfl
@[simp] theorem hold_cmdPort (w : CmdWord) (s : State) : (s.hold w).cmdPort = s.cmdPort ++ [w] := rfl
@[simp] theorem hold_events (w : CmdWord) (s : State) : (s.hold w).events = s.events := rfl
@[simp] theorem hold_draws (w : CmdWord) (s : State) : (s.hold w).draws = s.draws := rfl

@[simp] theorem accumulate_rxCnt (b : Byte) (s : State) : (s.accumulate b).rxCnt = s.rxCnt + 1 := rfl
@[simp] theorem accumulate_rxBuf (b : Byte) (s : State) : (s.accumulate b).rxBuf = s.rxBuf.setIfInBounds s.rxCnt.toNat b := rfl
@[simp] theorem accumulate_cuPhase (b : Byte) (s : State) : (s.accumulate b).cuPhase = s.cuPhase := rfl
@[simp] theorem accumulate_cuOp (b : Byte) (s : State) : (s.accumulate b).cuOp = s.cuOp := rfl
@[simp] theorem accumulate_cuIdx (b : Byte) (s : State) : (s.accumulate b).cuIdx = s.cuIdx := rfl
@[simp] theorem accumulate_cuFrame (b : Byte) (s : State) : (s.accumulate b).cuFrame = s.cuFrame := rfl
@[simp] theorem accumulate_txLog (b : Byte) (s : State) : (s.accumulate b).txLog = s.txLog := rfl
@[simp] theorem accumulate_statusLog (b : Byte) (s : State) : (s.accumulate b).statusLog = s.statusLog := rfl
@[simp] theorem accumulate_respLog (b : Byte) (s : State) : (s.accumulate b).respLog = s.respLog := rfl
@[simp] theorem accumulate_params (b : Byte) (s : State) : (s.accumulate b).params = s.params := rfl
@[simp] theorem accumulate_cmdPort (b : Byte) (s : State) : (s.accumulate b).cmdPort = s.cmdPort := rfl
@[simp] theorem accumulate_events (b : Byte) (s : State) : (s.accumulate b).events = s.events := rfl
@[simp] theorem accumulate_draws (b : Byte) (s : State) : (s.accumulate b).draws = s.draws := rfl

@[simp] theorem resetElements_rxCnt (s : State) : (s.resetElements).rxCnt = 0 := rfl
@[simp] theorem resetElements_rxBuf (s : State) : (s.resetElements).rxBuf = Config.freeRxBuf s.draws := rfl
@[simp] theorem resetElements_cuPhase (s : State) : (s.resetElements).cuPhase = .idle := rfl
@[simp] theorem resetElements_cuOp (s : State) : (s.resetElements).cuOp = Config.freeCuOp s.draws := rfl
@[simp] theorem resetElements_cuIdx (s : State) : (s.resetElements).cuIdx = Config.freeCuIdx s.draws := rfl
@[simp] theorem resetElements_cuFrame (s : State) : (s.resetElements).cuFrame = Config.freeCuFrame s.draws := rfl
@[simp] theorem resetElements_txLog (s : State) : (s.resetElements).txLog = s.txLog := rfl
@[simp] theorem resetElements_statusLog (s : State) : (s.resetElements).statusLog = s.statusLog := rfl
@[simp] theorem resetElements_respLog (s : State) : (s.resetElements).respLog = s.respLog := rfl
@[simp] theorem resetElements_params (s : State) : (s.resetElements).params = s.params := rfl
@[simp] theorem resetElements_cmdPort (s : State) : (s.resetElements).cmdPort = s.cmdPort := rfl
@[simp] theorem resetElements_events (s : State) : (s.resetElements).events = s.events := rfl
@[simp] theorem resetElements_draws (s : State) : (s.resetElements).draws = s.draws + 1 := rfl

end Sys2Proof.Machine
end

