-- ==== Sys2Proof/Laws/Ops.lean ====
section
/-! SUPPORT. For each shared operation, what it does in each of its cases. -/

namespace Sys2Proof.Machine

theorem present_idle (s t : State) (w : CmdWord) (h : s.cuPhase = .idle) : s.present w t = t := if_pos h

theorem present_busy (s t : State) (w : CmdWord) (h : s.cuPhase ≠ .idle) : s.present w t = s.hold w := if_neg h

theorem answerOk_first_of_pulse (s : State) (h1 : s.cuPhase = .wait1) (h2 : s.cuOp = .pulse) :
    s.answerOk = ((s.appendTx s.cuFrame.bytes).txWrite (setFrame s.cuIdx .closedReq)).setPhase .wait2 :=
  if_pos ⟨h1, h2⟩

theorem answerOk_last (s : State) (h : ¬(s.cuPhase = .wait1 ∧ s.cuOp = .pulse)) :
    s.answerOk = ((s.appendTx s.cuFrame.bytes).respond .ok).setPhase .idle := if_neg h

theorem takeAnswer_idle (a : TxAnswer) (s : State) (h : s.cuPhase = .idle) : s.takeAnswer a = s := if_pos h

theorem takeAnswer_ok (s : State) (h : s.cuPhase ≠ .idle) : s.takeAnswer .ok = s.answerOk := if_neg h

theorem takeAnswer_fail (k : Fin 9) (s : State) (h : s.cuPhase ≠ .idle) : s.takeAnswer (.fail k) = s.answerFail k :=
  if_neg h

theorem sendFrame_offered (s : State) (h : s.cuPhase ≠ .idle) : s.sendFrame s.cuFrame = s.answerOk :=
  if_pos ⟨h, rfl⟩

theorem sendFrame_not_offered (f : Frame) (s : State) (h : s.cuPhase = .idle ∨ s.cuFrame ≠ f) :
    s.sendFrame f = s := by
  unfold State.sendFrame
  split
  · rename_i h'; rcases h with h | h
    · exact absurd h h'.1
    · exact absurd h'.2 h
  · rfl

theorem validateAndDispatch_valid (f : Frame) (s : State) (h : valid s.params f = true) :
    s.validateAndDispatch f = s.emitStatus (relayVector f) := if_pos h

theorem validateAndDispatch_drop (f : Frame) (s : State) (h : valid s.params f = false) :
    s.validateAndDispatch f = s := if_neg (by simp [h])

/-- Everything a completed frame can do. -/
theorem validateAndDispatch_cases (f : Frame) (s : State) :
    s.validateAndDispatch f = { s with statusLog := s.statusLog ++ (statusOf s.params f).toList } := by
  unfold State.validateAndDispatch statusOf
  split <;> simp [State.emitStatus]

theorem receive_accumulating (b : Byte) (s : State) (h : s.rxCnt ≠ 7) : s.receive b = s.accumulate b := if_neg h

theorem receive_completing (b : Byte) (s : State) (h : s.rxCnt = 7) :
    s.receive b =
      { s with rxCnt := 0, statusLog := s.statusLog ++ (statusOf s.params (s.completedFrame b)).toList } := by
  unfold State.receive
  rw [if_pos h, validateAndDispatch_cases]

/-- Everything the delivery of a byte can do: it touches the decoder's elements and STATUS only. -/
theorem receive_frame (b : Byte) (s : State) :
    s.receive b =
      { s with rxCnt := (s.receive b).rxCnt, rxBuf := (s.receive b).rxBuf, statusLog := (s.receive b).statusLog } := by
  by_cases h : s.rxCnt = 7
  · rw [receive_completing b s h]
  · rw [receive_accumulating b s h]; rfl

/-- Everything the completion of a frame can do. -/
theorem completeFrame_cases (f : Frame) (s : State) :
    s.completeFrame f = s.receive f.b7 ∨ s.completeFrame f = s := by
  unfold State.completeFrame
  split
  · exact .inl rfl
  · exact .inr rfl

/-- The frame that the held bytes and `b` make completes: that is the delivery of `b`. -/
theorem completeFrame_held (b : Byte) (s : State) (h : s.rxCnt = 7) :
    s.completeFrame (s.completedFrame b) = s.receive b := if_pos ⟨h, rfl⟩

theorem completeFrame_other (f : Frame) (s : State) (h : s.rxCnt ≠ 7 ∨ s.completedFrame f.b7 ≠ f) :
    s.completeFrame f = s := by
  unfold State.completeFrame
  split
  · rename_i h'
    rcases h with h | h
    · exact absurd h'.1 h
    · exact absurd h'.2 h
  · rfl

/-- The window that completes a frame, element by element. -/
theorem window_full (b : Byte) (s : State) (h : s.rxCnt = 7) :
    s.window b =
      [s.rxBuf[0], s.rxBuf[1], s.rxBuf[2], s.rxBuf[3], s.rxBuf[4], s.rxBuf[5], s.rxBuf[6], b] := by
  have hb : s.rxBuf.toList =
      [s.rxBuf[0], s.rxBuf[1], s.rxBuf[2], s.rxBuf[3], s.rxBuf[4], s.rxBuf[5], s.rxBuf[6]] := by
    apply List.ext_getElem (by simp)
    intro i hi _
    have hi : i < 7 := by simpa using hi
    interval_cases i <;> rfl
  unfold State.window
  rw [h, hb]
  rfl

theorem window_length (b : Byte) (s : State) : (s.window b).length = s.rxCnt.toNat + 1 := by
  have := s.rxCnt.isLt
  simp only [State.window, List.length_append, List.length_take, Vector.length_toList, List.length_singleton]
  omega

@[simp] theorem receiveAll_nil (s : State) : s.receiveAll [] = s := rfl

@[simp] theorem receiveAll_cons (b : Byte) (bs : List Byte) (s : State) :
    s.receiveAll (b :: bs) = (s.receive b).receiveAll bs := rfl

theorem receiveAll_append (xs ys : List Byte) (s : State) :
    s.receiveAll (xs ++ ys) = (s.receiveAll xs).receiveAll ys := by
  simp [State.receiveAll, List.foldl_append]

/-- Everything a delivery of bytes can do. -/
theorem receiveAll_frame (bytes : List Byte) (s : State) :
    s.receiveAll bytes =
      { s with
        rxCnt := (s.receiveAll bytes).rxCnt
        rxBuf := (s.receiveAll bytes).rxBuf
        statusLog := (s.receiveAll bytes).statusLog } := by
  induction bytes generalizing s with
  | nil => rfl
  | cons b bs ih =>
    rw [receiveAll_cons, ih (s.receive b), receive_frame b s]

theorem abandon_idle (k : Fin 9) (s : State) (h : s.cuPhase = .idle) : s.abandon k = s := if_pos h

theorem abandon_busy (k : Fin 9) (s : State) (h : s.cuPhase ≠ .idle) :
    s.abandon k = s.appendTx (s.cuFrame.bytes.take k.val) := if_neg h

/-- Everything a reset can do to the wire. -/
theorem takeReset_cases (k : Fin 9) (s : State) :
    (s.cuPhase = .idle ∧ s.takeReset k = s.resetElements) ∨
    (s.cuPhase ≠ .idle ∧ s.takeReset k = (s.appendTx (s.cuFrame.bytes.take k.val)).resetElements) := by
  by_cases h : s.cuPhase = .idle
  · exact .inl ⟨h, by rw [State.takeReset, abandon_idle k s h]⟩
  · exact .inr ⟨h, by rw [State.takeReset, abandon_busy k s h]⟩

theorem legalIndex_iff (idx : Byte) : legalIndex idx = true ↔ idx.toNat ≤ 3 := by
  have h : legalIndex idx = true ↔ idx.toNat < 4 := ⟨fun h => of_decide_eq_true h, fun h => decide_eq_true h⟩
  rw [h]
  omega

end Sys2Proof.Machine
end

