-- ==== Sys2Proof/Laws/Decode.lean ====
section
/-! SUPPORT. The fields of a command word, the outbound rows as frames, and what decoding an offered frame means. -/

namespace Sys2Proof

theorem cmdIdx_cmdWord (idx : Byte) (rsv : BitVec 5) (d : Bool) (op : BitVec 2) :
    cmdIdx (cmdWord idx rsv d op) = idx := by
  apply BitVec.eq_of_toNat_eq
  simp only [cmdIdx, cmdWord, BitVec.extractLsb'_toNat, BitVec.toNat_append, BitVec.toNat_ofBool,
    Nat.shiftRight_eq_div_pow]
  have h1 := op.isLt; have h2 := rsv.isLt; have h3 := idx.isLt; have h4 := d.toNat_lt
  rw [← Nat.shiftLeft_add_eq_or_of_lt (by omega), ← Nat.shiftLeft_add_eq_or_of_lt (by omega),
    ← Nat.shiftLeft_add_eq_or_of_lt (by omega)]
  simp only [Nat.shiftLeft_eq]
  omega

theorem cmdRsv_cmdWord (idx : Byte) (rsv : BitVec 5) (d : Bool) (op : BitVec 2) :
    cmdRsv (cmdWord idx rsv d op) = rsv := by
  apply BitVec.eq_of_toNat_eq
  simp only [cmdRsv, cmdWord, BitVec.extractLsb'_toNat, BitVec.toNat_append, BitVec.toNat_ofBool,
    Nat.shiftRight_eq_div_pow]
  have h1 := op.isLt; have h2 := rsv.isLt; have h3 := idx.isLt; have h4 := d.toNat_lt
  rw [← Nat.shiftLeft_add_eq_or_of_lt (by omega), ← Nat.shiftLeft_add_eq_or_of_lt (by omega),
    ← Nat.shiftLeft_add_eq_or_of_lt (by omega)]
  simp only [Nat.shiftLeft_eq]
  omega

theorem cmdOp_cmdWord (idx : Byte) (rsv : BitVec 5) (d : Bool) (op : BitVec 2) :
    cmdOp (cmdWord idx rsv d op) = op := by
  apply BitVec.eq_of_toNat_eq
  simp only [cmdOp, cmdWord, BitVec.extractLsb'_toNat, BitVec.toNat_append, BitVec.toNat_ofBool,
    Nat.shiftRight_eq_div_pow]
  have h1 := op.isLt; have h2 := rsv.isLt; have h3 := idx.isLt; have h4 := d.toNat_lt
  rw [← Nat.shiftLeft_add_eq_or_of_lt (by omega), ← Nat.shiftLeft_add_eq_or_of_lt (by omega),
    ← Nat.shiftLeft_add_eq_or_of_lt (by omega)]
  simp only [Nat.shiftLeft_eq]
  omega

theorem cmdD_cmdWord (idx : Byte) (rsv : BitVec 5) (d : Bool) (op : BitVec 2) :
    cmdD (cmdWord idx rsv d op) = d := by
  simp only [cmdD, cmdWord, BitVec.getLsbD_append]
  simp

/-- A command word is its fields. -/
theorem cmdWord_fields (w : CmdWord) : cmdWord (cmdIdx w) (cmdRsv w) (cmdD w) (cmdOp w) = w := by
  apply BitVec.eq_of_getLsbD_eq
  intro i hi
  simp only [cmdWord, cmdIdx, cmdRsv, cmdD, cmdOp, BitVec.getLsbD_append, BitVec.getLsbD_extractLsb',
    BitVec.getLsbD_ofBool]
  have h : i = 0 ∨ i = 1 ∨ i = 2 ∨ i = 3 ∨ i = 4 ∨ i = 5 ∨ i = 6 ∨ i = 7 ∨ i = 8 ∨ i = 9 ∨ i = 10 ∨ i = 11 ∨
      i = 12 ∨ i = 13 ∨ i = 14 ∨ i = 15 := by omega
  rcases h with rfl | rfl | rfl | rfl | rfl | rfl | rfl | rfl | rfl | rfl | rfl | rfl | rfl | rfl | rfl | rfl <;> simp

/-- OP has four values. -/
theorem cmdOp_eq_three (w : CmdWord) (h0 : cmdOp w ≠ 0) (h1 : cmdOp w ≠ 1) (h2 : cmdOp w ≠ 2) : cmdOp w = 3 := by
  generalize cmdOp w = o at *
  revert o
  decide

@[simp] theorem desired_ofBit_toBit (d : Desired) : Desired.ofBit d.toBit = d := by cases d <;> rfl

@[simp] theorem desired_toBit_ofBit (b : Bool) : (Desired.ofBit b).toBit = b := by cases b <;> rfl

theorem rowFrameQuery_eq : rowFrameQuery = Machine.queryFrame := by decide
theorem rowFrameSetOpen0_eq : rowFrameSetOpen0 = Machine.setFrame 0 .openReq := by decide
theorem rowFrameSetOpen1_eq : rowFrameSetOpen1 = Machine.setFrame 1 .openReq := by decide
theorem rowFrameSetOpen2_eq : rowFrameSetOpen2 = Machine.setFrame 2 .openReq := by decide
theorem rowFrameSetOpen3_eq : rowFrameSetOpen3 = Machine.setFrame 3 .openReq := by decide
theorem rowFrameSetClosed_eq : rowFrameSetClosed = Machine.setFrame 0 .closedReq := by decide

/-- The closed-request frame is one frame for every index. -/
theorem setFrame_closed_any (i j : BitVec 2) : Machine.setFrame i .closedReq = Machine.setFrame j .closedReq := by
  have h : ∀ i : BitVec 2, Machine.setFrame i .closedReq = Machine.setFrame 0 .closedReq := by decide
  rw [h i, h j]

/-- A command presented while the unit is busy is held as it is. -/
theorem exec_decodeCmd_busy (w : CmdWord) (s : Machine.State) (h : s.cuPhase ≠ .idle) :
    Machine.exec (decodeCmd w) s = .next (s.hold w) := by
  have hw := cmdWord_fields w
  unfold decodeCmd
  split
  · rename_i h0; rw [h0] at hw
    simp only [Machine.exec, Machine.execQuery, Machine.present_busy _ _ _ h, hw]
  · split
    · rename_i h0; rw [h0] at hw
      simp only [Machine.exec, Machine.execSet, Machine.present_busy _ _ _ h, desired_toBit_ofBit, hw]
    · split
      · rename_i h0; rw [h0] at hw
        simp only [Machine.exec, Machine.execPulse, Machine.present_busy _ _ _ h, hw]
      · rw [cmdOp_eq_three w ‹_› ‹_› ‹_›] at hw
        simp only [Machine.exec, Machine.execRsvd, Machine.present_busy _ _ _ h, hw]

/-- The acceptance of a command word in IDLE, by its OP. -/
def acceptWord (w : CmdWord) (s : Machine.State) : Machine.State :=
  if cmdOp w = 0 then s.acceptQuery
  else if cmdOp w = 1 then s.acceptSet (cmdIdx w) (Desired.ofBit (cmdD w))
  else if cmdOp w = 2 then s.acceptPulse (cmdIdx w)
  else s.acceptRsvd

/-- A command presented in IDLE is accepted. -/
theorem exec_decodeCmd_idle (w : CmdWord) (s : Machine.State) (h : s.cuPhase = .idle) :
    Machine.exec (decodeCmd w) s = .next (acceptWord w s) := by
  unfold decodeCmd acceptWord
  repeat' split
  all_goals simp only [Machine.exec, Machine.execQuery, Machine.execSet, Machine.execPulse, Machine.execRsvd,
    Machine.present_idle _ _ _ h]

/-- A window shorter than a frame is the RX_BYTE of its last byte. -/
theorem decodeRx_short (p : Params) (window : List Byte) (h : window.length < 8) :
    decodeRx p window = window.getLast?.map Instr.rxByte := by
  unfold decodeRx
  split
  · simp at h
  · rw [if_pos h]

/-- Every delivery decodes, and whichever row it is, running it delivers that one byte. -/
theorem exec_of_window (b : Byte) (s : Machine.State) :
    ∃ i, decodeRx s.params (s.window b) = some i ∧
      ∀ es, Machine.exec i { s with events := es } = .next (({ s with events := es } : Machine.State).receive b) := by
  by_cases h : s.rxCnt = 7
  · rw [Machine.window_full b s h]
    simp only [decodeRx]
    split
    · exact ⟨_, rfl, fun es => congrArg Host.Outcome.next (Machine.completeFrame_held b { s with events := es } h)⟩
    · exact ⟨_, rfl, fun _ => rfl⟩
  · have hl : (s.window b).length < 8 := by
      have h7 : s.rxCnt.toNat ≠ 7 := fun h' => h (BitVec.eq_of_toNat_eq h')
      have := s.rxCnt.isLt
      rw [Machine.window_length]
      omega
    refine ⟨.rxByte b, ?_, fun _ => rfl⟩
    rw [decodeRx_short _ _ hl, Machine.State.window, List.getLast?_concat]
    rfl

/-- An offered frame that decodes is sent by the instruction it decodes to. -/
theorem exec_of_decodeTx (f : Frame) (i : Instr) (s : Machine.State) (h : decodeTx f = some i) :
    Machine.exec i s = .next (s.sendFrame f) := by
  unfold decodeTx at h
  repeat' split at h
  all_goals first
    | (obtain rfl := Option.some.inj h; subst_vars
       simp only [Machine.exec, Machine.execFrameQuery, Machine.execFrameSetOpen0, Machine.execFrameSetOpen1,
         Machine.execFrameSetOpen2, Machine.execFrameSetOpen3, Machine.execFrameSetClosed, rowFrameQuery_eq,
         rowFrameSetOpen0_eq, rowFrameSetOpen1_eq, rowFrameSetOpen2_eq, rowFrameSetOpen3_eq, rowFrameSetClosed_eq])
    | cases h

end Sys2Proof
end

