-- ==== Sys2Proof/Laws/PerInstr.lean ====
section
/-! SUPPORT. One fact per instruction, as syntax: the port and the width of its encoding are the table's. -/

namespace Sys2Proof.Laws.EncodedWidth

/-- The bits a packet has on its port. -/
def packetBits : Packet → Nat
  | .cmd _ => 16
  | .rx bytes => 8 * bytes.length
  | .tx f => 8 * f.bytes.length

/-- The width of a row's encoding in spec/opcode_table.json: formats CMD16, BYTE8, FRAME64_OUT, FRAME64_IN. -/
def rowBits : Instr → Nat
  | .query _ _ _ => 16
  | .set _ _ _ => 16
  | .pulse _ _ _ => 16
  | .rsvd _ _ _ => 16
  | .rxByte _ => 8
  | .frameQuery => 64
  | .frameSetOpen0 => 64
  | .frameSetOpen1 => 64
  | .frameSetOpen2 => 64
  | .frameSetOpen3 => 64
  | .frameSetClosed => 64
  | .frameStatus _ => 64

/-- An instruction's encoding has the width of its row. -/
def Statement (i : Instr) : Prop := packetBits (encode i) = rowBits i

theorem query (idx : Byte) (rsv : BitVec 5) (d : Bool) : Statement (.query idx rsv d) := rfl
theorem set (idx : Byte) (rsv : BitVec 5) (d : Desired) : Statement (.set idx rsv d) := rfl
theorem pulse (idx : Byte) (rsv : BitVec 5) (d : Bool) : Statement (.pulse idx rsv d) := rfl
theorem rsvd (idx : Byte) (rsv : BitVec 5) (d : Bool) : Statement (.rsvd idx rsv d) := rfl
theorem rxByte (b : Byte) : Statement (.rxByte b) := rfl
theorem frameQuery : Statement .frameQuery := rfl
theorem frameSetOpen0 : Statement .frameSetOpen0 := rfl
theorem frameSetOpen1 : Statement .frameSetOpen1 := rfl
theorem frameSetOpen2 : Statement .frameSetOpen2 := rfl
theorem frameSetOpen3 : Statement .frameSetOpen3 := rfl
theorem frameSetClosed : Statement .frameSetClosed := rfl
theorem frameStatus (f : Frame) : Statement (.frameStatus f) := rfl

end Sys2Proof.Laws.EncodedWidth
end

