-- ==== Sys2Proof/Laws/Step.lean ====
section
/-! SUPPORT. What one step can do, said once. -/

namespace Sys2Proof.Machine

theorem step_run (s t : State) (i : Instr) (h : fetch s = .run i t) : step s = exec i t := by
  simp only [step, h]

theorem step_answer (s t : State) (a : TxAnswer) (h : fetch s = .answer a t) : step s = .next (t.takeAnswer a) := by
  simp only [step, h]

theorem step_reset (s t : State) (k : Fin 9) (h : fetch s = .reset k t) : step s = .next (t.takeReset k) := by
  simp only [step, h]

theorem step_quiet (s t : State) (h : fetch s = .quiet t) : step s = .next t := by
  simp only [step, h]

/-- What a step can do once its event is off the script. -/
inductive StepEffect (s : State) : State → Prop
  /-- Nothing is enabled, or the answer or the frame is not one that is awaited. -/
  | nothing : StepEffect s s
  /-- A command is held. -/
  | held (w : CmdWord) (h : s.cuPhase ≠ .idle) : StepEffect s (s.hold w)
  /-- A command is accepted. -/
  | accepted (w : CmdWord) (h : s.cuPhase = .idle) : StepEffect s (acceptWord w s)
  /-- The pending write is answered OK. -/
  | answeredOk (h : s.cuPhase ≠ .idle) : StepEffect s s.answerOk
  /-- The pending write is answered FAIL(k). -/
  | answeredFail (k : Fin 9) (h : s.cuPhase ≠ .idle) : StepEffect s (s.answerFail k)
  /-- One byte is delivered. -/
  | received (b : Byte) : StepEffect s (s.receive b)
  /-- Reset. -/
  | reset (k : Fin 9) : StepEffect s (s.takeReset k)

theorem effect_of_decodeCmd (w : CmdWord) (s t : State) (h : exec (decodeCmd w) s = .next t) : StepEffect s t := by
  by_cases hp : s.cuPhase = .idle
  · rw [exec_decodeCmd_idle w s hp] at h
    obtain rfl := Host.Outcome.next.inj h
    exact .accepted w hp
  · rw [exec_decodeCmd_busy w s hp] at h
    obtain rfl := Host.Outcome.next.inj h
    exact .held w hp

/-- A step delivers exactly one byte of a notification, whatever the decoder's state. -/
theorem step_rx (s : State) (b : Byte) (rest : List Byte) (es : List Event) (h : s.events = .rx (b :: rest) :: es) :
    step s = .next (({ s with events := pushRx rest es } : State).receive b) := by
  obtain ⟨i, hd, hx⟩ := exec_of_window b s
  have hd' : decodeRx s.params (({ s with events := es } : State).window b) = some i := hd
  simp only [step, fetch, fetchRx, h, hd']
  exact hx (pushRx rest es)

/-- A notification of no byte does nothing. -/
theorem step_rx_empty (s : State) (es : List Event) (h : s.events = .rx [] :: es) :
    step s = .next { s with events := es } := by
  simp only [step, fetch, fetchRx, h]

/-- Everything a step can do: it takes its event off the script (and a word off the port), then has one effect. -/
theorem step_effect (s t : State) (h : step s = .next t) :
    ∃ (es : List Event) (ws : List CmdWord), StepEffect { s with events := es, cmdPort := ws } t := by
  cases hev : s.events with
  | nil =>
    simp only [step, fetch, hev] at h
    obtain rfl := Host.Outcome.next.inj h
    exact ⟨s.events, s.cmdPort, .nothing⟩
  | cons e es =>
    cases e with
    | cmd w =>
      simp only [step, fetch, hev] at h
      exact ⟨es, s.cmdPort, effect_of_decodeCmd w _ _ h⟩
    | accept n =>
      by_cases hp : s.cuPhase = .idle
      · cases hw : s.cmdPort[n]? with
        | some w =>
          simp only [step, fetch, fetchHeld, hev, if_pos hp, hw] at h
          exact ⟨es, s.cmdPort.eraseIdx n, effect_of_decodeCmd w _ _ h⟩
        | none =>
          simp only [step, fetch, fetchHeld, hev, if_pos hp, hw] at h
          obtain rfl := Host.Outcome.next.inj h
          exact ⟨es, s.cmdPort, .nothing⟩
      · simp only [step, fetch, fetchHeld, hev, if_neg hp] at h
        obtain rfl := Host.Outcome.next.inj h
        exact ⟨es, s.cmdPort, .nothing⟩
    | rx bytes =>
      cases bytes with
      | nil =>
        rw [step_rx_empty s es hev] at h
        obtain rfl := Host.Outcome.next.inj h
        exact ⟨es, s.cmdPort, .nothing⟩
      | cons b rest =>
        rw [step_rx s b rest es hev] at h
        obtain rfl := Host.Outcome.next.inj h
        exact ⟨pushRx rest es, s.cmdPort, .received b⟩
    | txAnswer a =>
      by_cases hp : s.cuPhase = .idle
      · simp only [step, fetch, fetchAnswer, hev, if_pos hp] at h
        obtain rfl := Host.Outcome.next.inj h
        exact ⟨es, s.cmdPort, .nothing⟩
      · have hp' : ({ s with events := es } : State).cuPhase ≠ .idle := hp
        cases a with
        | fail k =>
          simp only [step, fetch, fetchAnswer, hev, if_neg hp, takeAnswer_fail k _ hp'] at h
          obtain rfl := Host.Outcome.next.inj h
          exact ⟨es, s.cmdPort, .answeredFail k hp⟩
        | ok =>
          cases hd : decodeTx s.cuFrame with
          | some i =>
            simp only [step, fetch, fetchAnswer, hev, if_neg hp, hd, exec_of_decodeTx _ _ _ hd] at h
            obtain rfl := Host.Outcome.next.inj (h.symm.trans (congrArg _ (sendFrame_offered { s with events := es } hp)))
            exact ⟨es, s.cmdPort, .answeredOk hp⟩
          | none =>
            simp only [step, fetch, fetchAnswer, hev, if_neg hp, hd, takeAnswer_ok _ hp'] at h
            obtain rfl := Host.Outcome.next.inj h
            exact ⟨es, s.cmdPort, .answeredOk hp⟩
    | reset k =>
      simp only [step, fetch, hev] at h
      obtain rfl := Host.Outcome.next.inj h
      exact ⟨es, s.cmdPort, .reset k⟩

end Sys2Proof.Machine
end

