-- ==== Sys2Proof/Laws/Run.lean ====
section
/-! SUPPORT. Runs of several steps, and inbound bytes moved past a change of the event script. -/

namespace Sys2Proof.Machine

@[simp] theorem stepN_zero (s : State) : stepN 0 s = .next s := rfl

theorem stepN_succ (n : Nat) (s t : State) (h : step s = .next t) : stepN (n + 1) s = stepN n t := by
  simp only [stepN, h]

theorem stepN_add (n m : Nat) (s t : State) (h : stepN n s = .next t) : stepN (n + m) s = stepN m t := by
  induction n generalizing s with
  | zero => obtain rfl := Host.Outcome.next.inj h; rw [Nat.zero_add]
  | succ n ih =>
    rw [Nat.add_right_comm]
    cases hu : step s with
    | next u =>
      rw [stepN_succ _ _ _ hu] at h ⊢
      exact ih u h
    | fault r => cases r
    | refused r => simp [stepN, hu] at h

/-- The decoder does not look at the script. -/
theorem receive_with_events (b : Byte) (es : List Event) (s : State) :
    ({ s with events := es } : State).receive b = { s.receive b with events := es } := by
  by_cases h : s.rxCnt = 7
  · rw [receive_completing b s h, receive_completing b { s with events := es } h]; rfl
  · rw [receive_accumulating b s h, receive_accumulating b { s with events := es } h]; rfl

theorem receiveAll_with_events (bytes : List Byte) (es : List Event) (s : State) :
    ({ s with events := es } : State).receiveAll bytes = { s.receiveAll bytes with events := es } := by
  induction bytes generalizing s with
  | nil => rfl
  | cons b bs ih => rw [receiveAll_cons, receiveAll_cons, receive_with_events, ih]

end Sys2Proof.Machine
end

