-- ==== Sys2Proof/Tests/Slice0.lean ====
section
/-! SUPPORT. The model's own tests. Expected values are those of spec 95 (vectors E, V, A and programs P) or are read
off the spec's tables by hand; each test's comment names its source. The witnesses show, for each statement with
hypotheses, that a concrete state and operands meet them together. -/

namespace Sys2Proof.Tests

open Sys2Proof Sys2Proof.Machine

/-! ### Helpers -/

/-- The next state, if there is one. -/
def after : Host.Outcome State Fault Refusal → Option State
  | .next t => some t
  | .fault _ => none
  | .refused _ => none

/-- A write of `f` for operation `op` and index `i` is pending in phase `ph`. -/
def pending (ph : CuPhase) (op : CuOp) (i : BitVec 2) (f : Frame) : State :=
  { State.reset with cuPhase := ph, cuOp := op, cuIdx := i, cuFrame := f }

/-- The decoder holds the first `n` bytes of `v`. -/
def holding (n : BitVec 3) (v : Vector Byte 7) : State := { State.reset with rxCnt := n, rxBuf := v }

/-- `s` with the events `es` to come. -/
def with' (s : State) (es : List Event) : State := { s with events := es }

/-- V1 of spec 95. -/
def v1Frame : Frame := ⟨0x34, 0x01, 0x01, 0x02, 0x01, 0x01, 0x01, 0x3B⟩

/-- The first seven bytes of V1, as `rx_buf`. -/
def v1Held : Vector Byte 7 := #v[0x34, 0x01, 0x01, 0x02, 0x01, 0x01, 0x01]

/-- SET 2, OPEN is waiting for its answer. -/
def set2 : State := pending .wait1 .set 2 ⟨0x55, 0x01, 0x01, 0x01, 0x01, 0x02, 0x01, 0x5C⟩

/-- PULSE 3, its first write pending. -/
def pulse3 : State := pending .wait1 .pulse 3 ⟨0x55, 0x01, 0x01, 0x01, 0x01, 0x01, 0x02, 0x5C⟩

/-- PULSE 3, its second write pending. -/
def pulse3Second : State := pending .wait2 .pulse 3 ⟨0x55, 0x01, 0x01, 0x01, 0x01, 0x01, 0x01, 0x5B⟩

/-! ### Well-formedness: the one check, each way -/

/-- 30 R61, R66: an inbound frame whose first byte is not the inbound marker is no FRAME_STATUS. -/
theorem test_wf_refuses_other_marker :
    Instr.wf Params.spec (.frameStatus ⟨0x22, 0x01, 0x01, 0x02, 0x01, 0x01, 0x01, 0x29⟩) = false := by decide

theorem test_wf_accepts_marker :
    Instr.wf Params.spec (.frameStatus v1Frame) = true ∧
    Instr.wf { Params.spec with inboundMarker := 0x22 }
      (.frameStatus ⟨0x22, 0x01, 0x01, 0x02, 0x01, 0x01, 0x01, 0x29⟩) = true := by decide

/-! ### Decoding: every constructor, from words written out from 30 R61, R64, R65, R70 -/

/-- E2: 0xABFC is IDX 0xAB, RSV 11111, D 1, OP 00. -/
theorem test_decode_query : decodeCmd 0b1010101111111100 = .query 0xAB 0b11111 true := by decide

/-- E4 and E9: SET 1, OPEN, and the same with RSV 11111. -/
theorem test_decode_set :
    decodeCmd 0b0000000100000101 = .set 1 0 .openReq ∧ decodeCmd 0b0000000111111101 = .set 1 0b11111 .openReq ∧
    decodeCmd 0b1111111100000001 = .set 255 0 .closedReq := by decide

/-- E15, E16: PULSE 0, and PULSE 3 with D = 1. -/
theorem test_decode_pulse :
    decodeCmd 0b0000000000000010 = .pulse 0 0 false ∧ decodeCmd 0b0000001100000110 = .pulse 3 0 true := by decide

/-- E14: 0x0703 is reserved. -/
theorem test_decode_rsvd : decodeCmd 0b0000011100000011 = .rsvd 7 0 false := by decide

/-- A1: one byte, though it is the marker, is RX_BYTE. -/
theorem test_decode_rxByte : decodeRx Params.spec [0x34] = some (.rxByte 0x34) := by decide

/-- V13: the eighth byte of a frame without the marker is an RX_BYTE; A2: so is the seventh of one with it. -/
theorem test_decode_rxByte_of_longer :
    decodeRx Params.spec [0x22, 1, 1, 2, 1, 1, 1, 0x29] = some (.rxByte 0x29) ∧
    decodeRx Params.spec [0x34, 1, 1, 2, 1, 1, 0x01] = some (.rxByte 0x01) := by decide

/-- V1 with its eighth byte; nine bytes are no window. -/
theorem test_decode_frameStatus :
    decodeRx Params.spec [0x34, 0x01, 0x01, 0x02, 0x01, 0x01, 0x01, 0x3B] = some (.frameStatus v1Frame) ∧
    decodeRx Params.spec [0x34, 0x01, 0x01, 0x02, 0x01, 0x01, 0x01, 0x3B, 0x34] = none := by decide

/-- The six frames of 40 R88, byte by byte. -/
theorem test_decode_outbound :
    decodeTx ⟨0x55, 0x01, 0x00, 0x00, 0x00, 0x00, 0x00, 0x56⟩ = some .frameQuery ∧
    decodeTx ⟨0x55, 0x01, 0x01, 0x02, 0x01, 0x01, 0x01, 0x5C⟩ = some .frameSetOpen0 ∧
    decodeTx ⟨0x55, 0x01, 0x01, 0x01, 0x02, 0x01, 0x01, 0x5C⟩ = some .frameSetOpen1 ∧
    decodeTx ⟨0x55, 0x01, 0x01, 0x01, 0x01, 0x02, 0x01, 0x5C⟩ = some .frameSetOpen2 ∧
    decodeTx ⟨0x55, 0x01, 0x01, 0x01, 0x01, 0x01, 0x02, 0x5C⟩ = some .frameSetOpen3 ∧
    decodeTx ⟨0x55, 0x01, 0x01, 0x01, 0x01, 0x01, 0x01, 0x5B⟩ = some .frameSetClosed := by decide

/-- 90 C3: the document's slip 0x5D is no outbound frame; 90 C2: nor is the 0x00 template. -/
theorem test_decode_rejects :
    decodeTx ⟨0x55, 0x01, 0x01, 0x01, 0x02, 0x01, 0x01, 0x5D⟩ = none ∧
    decodeTx ⟨0x55, 0x01, 0x01, 0x00, 0x02, 0x00, 0x00, 0x59⟩ = none ∧
    decodeRx Params.spec [] = none := by decide

/-- The host's numbering, one word per row. -/
theorem test_table_commands :
    decodeTableWord 16 0x0000 = some (.query 0 0 false) ∧ decodeTableWord 16 0x0105 = some (.set 1 0 .openReq) ∧
    decodeTableWord 16 0x0202 = some (.pulse 2 0 false) ∧ decodeTableWord 16 0x0003 = some (.rsvd 0 0 false) ∧
    decodeTableWord 8 0x02 = some (.pulse 0 0 false) ∧ decodeTableWord 0 0 = some (.rxByte 0) := by decide

theorem test_table_frames :
    decodeTableWord 64 0x5501000000000056 = some .frameQuery ∧
    decodeTableWord 64 0x550101010101015B = some .frameSetClosed ∧
    decodeTableWord 64 0x340101020101013B = some (.frameStatus v1Frame) ∧
    decodeTableWord 64 0x2201010201010129 = none := by decide

/-- 30 R76: the words of the assembly lines. -/
theorem test_assembly_words :
    Line.query.word? = some 0x0000 ∧ (Line.set 1 .openReq).word? = some 0x0105 ∧
    (Line.set 3 .closedReq).word? = some 0x0301 ∧ (Line.pulse 2).word? = some 0x0202 := by decide

/-- 30 R76: a line's text, with a comment, and in capitals or not. -/
theorem test_parse_line :
    parseLine "SET 1, OPEN      ; 0x0105".toList = some (some (.set 1 .openReq)) ∧
    parseLine "@tx fail 3".toList = some (some (.tx (.fail 3))) ∧
    parseLine "@rx 34 01".toList = some (some (.rx [0x34, 0x01])) ∧
    parseLine ".word 0xABFC".toList = some (some (.word 0xABFC)) := by decide

/-! ### One step of each instruction -/

/-- E2: QUERY with its ignored fields set offers the constant frame. -/
theorem test_query :
    (after (exec (.query 0xAB 0b11111 true) State.reset)).map (fun t => (t.cuPhase, t.cuFrame)) =
      some (.wait1, ⟨0x55, 0x01, 0x00, 0x00, 0x00, 0x00, 0x00, 0x56⟩) := by decide

/-- E20: a command presented while another waits has no step: it is held. -/
theorem test_query_held :
    (after (exec (.query 0 0 false) set2)).map (fun t => (t.cmdPort, t.cuFrame.b5)) = some ([0x0000], 0x02) := by
  decide

/-- E6: SET 3, OPEN, the highest index. -/
theorem test_set_highest :
    (after (exec (.set 3 0 .openReq) State.reset)).map (fun t => (t.cuPhase, t.cuFrame)) =
      some (.wait1, ⟨0x55, 0x01, 0x01, 0x01, 0x01, 0x01, 0x02, 0x5C⟩) := by decide

/-- E10: SET 4, OPEN, the first illegal index. -/
theorem test_set_rejected :
    (after (exec (.set 4 0 .openReq) State.reset)).map (fun t => (t.cuPhase, t.respLog)) =
      some (.idle, [.invalidIndex]) := by decide

/-- E16: PULSE 3 with D = 1 offers the Open frame. -/
theorem test_pulse :
    (after (exec (.pulse 3 0 true) State.reset)).map (fun t => (t.cuOp, t.cuFrame)) =
      some (.pulse, ⟨0x55, 0x01, 0x01, 0x01, 0x01, 0x01, 0x02, 0x5C⟩) := by decide

/-- E12: PULSE 4. -/
theorem test_pulse_rejected :
    (after (exec (.pulse 4 0 false) State.reset)).map (fun t => (t.cuPhase, t.respLog)) =
      some (.idle, [.invalidIndex]) := by decide

/-- E14: the reserved code with IDX 7 is INVALID_COMMAND. -/
theorem test_rsvd :
    (after (exec (.rsvd 7 0 false) State.reset)).map (fun t => (t.cuPhase, t.respLog, t.txLog)) =
      some (.idle, [.invalidCommand], []) := by decide

/-- A2: the seventh byte only accumulates. -/
theorem test_rxByte_accumulates :
    (after (exec (.rxByte 0x01) (holding 6 #v[0x34, 0x01, 0x01, 0x02, 0x01, 0x01, 0xEE]))).map
      (fun t => (t.rxCnt, t.rxBuf, t.statusLog)) = some (7, v1Held, []) := by decide

/-- A3 and A4: the eighth byte completes the frame; one checksum is right, the other one high. -/
theorem test_rxByte_completes :
    (after (exec (.rxByte 0x3B) (holding 7 v1Held))).map (fun t => (t.rxCnt, t.statusLog)) =
      some (0, [⟨true, false, false, false⟩]) ∧
    (after (exec (.rxByte 0x3C) (holding 7 v1Held))).map (fun t => (t.rxCnt, t.statusLog)) = some (0, []) := by
  decide

/-- E1: the query frame goes out. -/
theorem test_frameQuery :
    (after (exec .frameQuery (pending .wait1 .query 0 ⟨0x55, 0x01, 0x00, 0x00, 0x00, 0x00, 0x00, 0x56⟩))).map
      (fun t => (t.txLog, t.respLog)) = some ([0x55, 0x01, 0x00, 0x00, 0x00, 0x00, 0x00, 0x56], [.ok]) := by decide

/-- E3. -/
theorem test_frameSetOpen0 :
    (after (exec .frameSetOpen0 (pending .wait1 .set 0 ⟨0x55, 0x01, 0x01, 0x02, 0x01, 0x01, 0x01, 0x5C⟩))).map
      (fun t => (t.txLog, t.respLog)) = some ([0x55, 0x01, 0x01, 0x02, 0x01, 0x01, 0x01, 0x5C], [.ok]) := by decide

/-- E4. -/
theorem test_frameSetOpen1 :
    (after (exec .frameSetOpen1 (pending .wait1 .set 1 ⟨0x55, 0x01, 0x01, 0x01, 0x02, 0x01, 0x01, 0x5C⟩))).map
      (fun t => (t.txLog, t.respLog)) = some ([0x55, 0x01, 0x01, 0x01, 0x02, 0x01, 0x01, 0x5C], [.ok]) := by decide

/-- E5. -/
theorem test_frameSetOpen2 :
    (after (exec .frameSetOpen2 set2)).map (fun t => (t.txLog, t.respLog)) =
      some ([0x55, 0x01, 0x01, 0x01, 0x01, 0x02, 0x01, 0x5C], [.ok]) := by decide

/-- E16: the first frame of PULSE 3; the Closed frame is offered in the same step and there is no RESP yet. -/
theorem test_frameSetOpen3 :
    (after (exec .frameSetOpen3 pulse3)).map (fun t => (t.cuPhase, t.cuFrame.b7, t.respLog)) =
      some (.wait2, 0x5B, []) := by decide

/-- E16: its second frame ends the command. -/
theorem test_frameSetClosed :
    (after (exec .frameSetClosed pulse3Second)).map (fun t => (t.cuPhase, t.txLog, t.respLog)) =
      some (.idle, [0x55, 0x01, 0x01, 0x01, 0x01, 0x01, 0x01, 0x5B], [.ok]) := by decide

/-- V10 completes: MOD256 passes it and SIGNED_WIDE drops it. -/
theorem test_frameStatus_rules :
    let s := holding 7 #v[0x34, 0x50, 0x50, 2, 2, 2, 2]
    (after (exec (.frameStatus ⟨0x34, 0x50, 0x50, 2, 2, 2, 2, 0xDC⟩) s)).map (fun t => (t.rxCnt, t.statusLog)) =
      some (0, [⟨true, true, true, true⟩]) ∧
    (after (exec (.frameStatus ⟨0x34, 0x50, 0x50, 2, 2, 2, 2, 0xDC⟩)
      { s with params := { Params.spec with checksumRule := .signedWide } })).map (fun t => (t.rxCnt, t.statusLog)) =
      some (0, []) := by decide

/-- R100 with A5: V1 in a chunk is not taken in one step; after the first only its first byte is held. -/
theorem test_step_takes_one_byte :
    (after (step (with' State.reset [.rx v1Frame.bytes]))).map (fun t => (t.rxCnt, t.rxBuf[0], t.events)) =
      some (1, 0x34, [.rx [0x01, 0x01, 0x02, 0x01, 0x01, 0x01, 0x3B]]) := by decide

/-- The host's word runs as the first instruction after reset: a command, a byte, an inbound and an outbound frame. -/
theorem test_fetch_word :
    (after (step (State.reset.withFetchWord 16 0x0003))).map (·.respLog) = some [.invalidCommand] ∧
    (after (step (State.reset.withFetchWord 0 0))).map (·.rxCnt) = some 1 ∧
    (after (step (State.reset.withFetchWord 64 0x340101020101013B))).map (·.statusLog.length) = some 1 ∧
    (after (step (State.reset.withFetchWord 64 0x550101010102015C))).map (·.txLog.length) = some 8 := by decide

/-! ### Steps that are no table row -/

/-- E19: FAIL(5) of SET 2, OPEN. -/
theorem test_answer_fail :
    (after (step (with' set2 [.txAnswer (.fail 5)]))).map (fun t => (t.txLog, t.respLog, t.cuPhase)) =
      some ([0x55, 0x01, 0x01, 0x01, 0x01], [.transportError], .idle) := by decide

/-- P5: reset in the middle of PULSE 3, with the draw of five bytes and a partial inbound frame. -/
theorem test_reset_in_pulse :
    (after (step (with' { pulse3Second with rxCnt := 3 } [.reset 5]))).map
      (fun t => (t.txLog, t.respLog, t.cuPhase, t.rxCnt)) = some ([0x55, 0x01, 0x01, 0x01, 0x01], [], .idle, 0) := by
  decide

/-- V4, V7 and 30 R69: lane order, state bytes 00, 03 and FF, and the packed form. -/
theorem test_vectors :
    (relayVector ⟨0x34, 0x01, 0x01, 0x01, 0x02, 0x01, 0x02, 0x3C⟩).packed = 0xA ∧
    (relayVector ⟨0x34, 0x00, 0x00, 0x00, 0x03, 0xFF, 0x02, 0x38⟩).packed = 0x8 := by decide

/-- V8, V17, V18 and V12 of spec 95. -/
theorem test_validity :
    valid { Params.spec with checksumRule := .signedWide } ⟨0x34, 0xFF, 0xFF, 2, 2, 2, 2, 0x3A⟩ = true ∧
    valid { Params.spec with checksumRule := .signedWide } ⟨0x34, 0x80, 0, 0, 0, 0, 0, 0xB4⟩ = true ∧
    valid Params.spec ⟨0x34, 0x4C, 0, 0, 0, 0, 0, 0x80⟩ = true ∧
    valid { Params.spec with checksumRule := .signedWide } ⟨0x34, 0x4C, 0, 0, 0, 0, 0, 0x80⟩ = false ∧
    valid Params.spec ⟨0, 0, 0, 0, 0, 0, 0, 0⟩ = false := by decide

/-! ### Witnesses: for every statement with hypotheses, something that meets them together, clause by clause -/

theorem witness_DecodeEncodeRoundTrip :
    Instr.wf Params.spec (.frameStatus v1Frame) = true ∧ Instr.wf Params.spec (.set 255 31 .openReq) = true ∧
    Instr.wf Params.spec .frameSetClosed = true := by decide

theorem witness_EncodeDecodeRoundTrip_cmd :
    decode Params.spec (.cmd 0xFFFF) = .ok (.rsvd 0xFF 0b11111 true) := by rfl

theorem witness_EncodeDecodeRoundTrip_rx :
    decode Params.spec (.rx [0x34, 1, 1, 2, 1, 1, 1, 0x3B]) = .ok (.frameStatus v1Frame) ∧
    decode Params.spec (.rx [0x35, 1, 1, 2, 1, 1, 1, 0x3C]) = .ok (.rxByte 0x3C) ∧
    decode Params.spec (.rx [0x34, 1]) = .ok (.rxByte 1) := ⟨rfl, rfl, rfl⟩

theorem witness_EncodeDecodeRoundTrip_tx :
    decode Params.spec (.tx ⟨0x55, 0x01, 0x01, 0x01, 0x01, 0x01, 0x01, 0x5B⟩) = .ok .frameSetClosed := by rfl

theorem witness_ResetValues :
    (with' pulse3 [.reset 8, .rx [0x34]]).events = .reset 8 :: [.rx [0x34]] ∧ pulse3.cuPhase ≠ .idle ∧
    (with' State.reset [.reset 0]).events = .reset 0 :: [] ∧ (with' State.reset [.reset 0]).cuPhase = .idle := by decide

theorem witness_ResetEvent :
    (with' pulse3Second [.reset 0, .cmd 0]).events = .reset 0 :: [.cmd 0] ∧
    (with' (holding 7 v1Held) [.reset 8]).events = .reset 8 :: [] ∧ pulse3Second.cuPhase ≠ .idle := by decide

/-- A command is held at the reset, with and without a write to abandon. -/
theorem witness_ResetLeavesPort :
    (with' { pulse3 with cmdPort := [0x0000] } [.reset 3]).events = .reset 3 :: [] ∧
    (with' { State.reset with cmdPort := [0x0000] } [.reset 0]).events = .reset 0 :: [] := by decide

theorem witness_QuietWithoutEvents : State.reset.events = [] ∧ set2.events = [] := by decide

theorem witness_StepRunsDecodedInstruction_cmd :
    (with' set2 [.cmd 0x0003, .cmd 0]).events = .cmd 0x0003 :: [.cmd 0] := by decide

theorem witness_StepRunsDecodedInstruction_accept :
    let s := with' { State.reset with cmdPort := [0x0000, 0x0105] } [.accept 1]
    s.events = .accept 1 :: [] ∧ s.cuPhase = .idle ∧ s.cmdPort[1]? = some 0x0105 := by decide

theorem witness_StepRunsDecodedInstruction_rx :
    let s := with' (holding 7 v1Held) [.rx [0x3B, 0x34], .txAnswer .ok]
    let t := with' (holding 3 v1Held) [.rx [0x02]]
    s.events = .rx (0x3B :: [0x34]) :: [.txAnswer .ok] ∧
    decodeRx s.params (s.rxBuf.toList.take s.rxCnt.toNat ++ [0x3B]) = some (.frameStatus v1Frame) ∧
    t.events = .rx (0x02 :: []) :: [] ∧
    decodeRx t.params (t.rxBuf.toList.take t.rxCnt.toNat ++ [0x02]) = some (.rxByte 0x02) := by decide

theorem witness_StepRunsDecodedInstruction_tx :
    let s := with' pulse3 [.txAnswer .ok, .txAnswer .ok]
    s.events = .txAnswer .ok :: [.txAnswer .ok] ∧ s.cuPhase ≠ .idle ∧ decodeTx s.cuFrame = some .frameSetOpen3 := by
  decide

theorem witness_ParametersNeverWritten : ∃ t, step (with' pulse3 [.txAnswer .ok]) = .next t := ⟨_, rfl⟩

theorem witness_LogsOnlyGrow : ∃ t, step (with' (holding 7 v1Held) [.rx [0x3B, 0x34]]) = .next t := ⟨_, rfl⟩

theorem witness_QueryCommand : State.reset.cuPhase = .idle ∧ (holding 7 v1Held).cuPhase = .idle := by decide

theorem witness_SetCommand_rejected : State.reset.cuPhase = .idle ∧ (4 : Byte).toNat > 3 ∧ (255 : Byte).toNat > 3 := by
  decide

theorem witness_SetCommand_accepted :
    State.reset.cuPhase = .idle ∧ (0 : Byte).toNat ≤ 3 ∧ (3 : Byte).toNat ≤ 3 ∧
    Desired.closedReq = .closedReq := by decide

theorem witness_PulseCommand :
    State.reset.cuPhase = .idle ∧ (3 : Byte).toNat ≤ 3 ∧ (4 : Byte).toNat > 3 := by decide

theorem witness_IndexAboveThreeRejected :
    (with' State.reset [.cmd 0x0401, .rx [1]]).events = .cmd 0x0401 :: [.rx [1]] ∧
    (with' State.reset [.cmd 0xFF02]).events = .cmd 0xFF02 :: [] ∧ State.reset.cuPhase = .idle ∧
    (0x0401 : CmdWord).toNat % 4 = 1 ∧ 3 < (0x0401 : CmdWord).toNat / 256 ∧
    (0xFF02 : CmdWord).toNat % 4 = 2 ∧ 3 < (0xFF02 : CmdWord).toNat / 256 := by decide

theorem witness_ReservedCommandRejected : (holding 3 v1Held).cuPhase = .idle := by decide

/-- One word for each branch: the reserved code with an illegal index, PULSE 4, SET 3 and QUERY with IDX 255. -/
theorem witness_ErrorPriority_commands :
    (with' State.reset [.cmd 0x0703]).events = .cmd 0x0703 :: [] ∧ State.reset.cuPhase = .idle ∧
    (0x0703 : CmdWord).toNat % 4 = 3 ∧
    (0x0402 : CmdWord).toNat % 4 ≠ 0 ∧ 3 < (0x0402 : CmdWord).toNat / 256 ∧
    ¬ 3 < (0x0301 : CmdWord).toNat / 256 ∧ (0xFF00 : CmdWord).toNat % 4 = 0 := by decide

/-- The marker fails; the checksum fails; both fail. -/
theorem witness_ErrorPriority_frames :
    (holding 7 #v[0x35, 1, 1, 2, 1, 1, 1]).rxCnt = 7 ∧
    (holding 7 #v[0x35, 1, 1, 2, 1, 1, 1]).rxBuf[0] ≠ Params.spec.inboundMarker ∧
    chkOk .mod256 ((holding 7 v1Held).completedFrame 0x3C) = false ∧
    chkOk .mod256 ((holding 7 #v[0x35, 1, 1, 2, 1, 1, 1]).completedFrame 0x3B) = false := by decide

theorem witness_IgnoredFieldsChangeNothing :
    State.reset.cuPhase = .idle ∧ 3 < (4 : Byte).toNat ∧ 3 < (255 : Byte).toNat := by decide

theorem witness_CommandPortSerialises_present :
    (with' State.reset [.cmd 0]).events = .cmd 0 :: [] ∧ (with' State.reset [.cmd 0]).cuPhase = .idle ∧
    (with' pulse3 [.cmd 0]).events = .cmd 0 :: [] ∧ (with' pulse3 [.cmd 0]).cuPhase ≠ .idle ∧
    (with' pulse3Second [.cmd 0]).cuPhase ≠ .idle := by decide

theorem witness_CommandPortSerialises_accept :
    let s := with' { State.reset with cmdPort := [0x0000, 0x0105] } [.accept 0]
    let b := with' { pulse3 with cmdPort := [0x0000] } [.accept 0]
    s.events = .accept 0 :: [] ∧ s.cuPhase = .idle ∧ s.cmdPort[0]? = some 0x0000 ∧
    b.events = .accept 0 :: [] ∧ b.cuPhase ≠ .idle := by decide

theorem witness_CommandPortSerialises_answered :
    ∃ t, step (with' pulse3Second [.txAnswer .ok]) = .next t ∧ t.respLog ≠ pulse3Second.respLog :=
  ⟨_, rfl, by decide⟩

theorem witness_HostCommandFrame_idle :
    decodeCmd 0x0305 = .set 3 0 .openReq ∧ State.reset.cuPhase = .idle ∧
    ∃ t, exec (.set 3 0 .openReq) State.reset = .next t := ⟨by decide, by decide, _, rfl⟩

theorem witness_HostCommandFrame_busy :
    decodeCmd 0x0003 = .rsvd 0 0 false ∧ pulse3.cuPhase ≠ .idle ∧ ∃ t, exec (.rsvd 0 0 false) pulse3 = .next t :=
  ⟨by decide, by decide, _, rfl⟩

/-- The first write of a PULSE, the second one, and a QUERY. -/
theorem witness_OutboundFramesGoOut :
    pulse3.cuPhase ≠ .idle ∧ pulse3.cuFrame = ⟨0x55, 0x01, 0x01, 0x01, 0x01, 0x01, 0x02, 0x5C⟩ ∧
    (pulse3.cuPhase = .wait1 ∧ pulse3.cuOp = .pulse) ∧
    pulse3Second.cuPhase ≠ .idle ∧ pulse3Second.cuFrame = ⟨0x55, 0x01, 0x01, 0x01, 0x01, 0x01, 0x01, 0x5B⟩ ∧
    (pending .wait1 .query 0 queryFrame).cuFrame = ⟨0x55, 0x01, 0x00, 0x00, 0x00, 0x00, 0x00, 0x56⟩ := by decide

theorem witness_FrameNotOfferedUnchanged :
    decodeTx ⟨0x55, 0x01, 0x01, 0x01, 0x01, 0x01, 0x01, 0x5B⟩ = some .frameSetClosed ∧
    pulse3.cuFrame ≠ ⟨0x55, 0x01, 0x01, 0x01, 0x01, 0x01, 0x01, 0x5B⟩ ∧ State.reset.cuPhase = .idle := by decide

/-- An offered frame that is an outbound row, and one that is none. -/
theorem witness_AnswerOkTaken :
    (with' pulse3 [.txAnswer .ok, .cmd 0]).events = .txAnswer .ok :: [.cmd 0] ∧ pulse3.cuPhase ≠ .idle ∧
    (with' (pending .wait2 .query 0 v1Frame) [.txAnswer .ok]).cuPhase ≠ .idle ∧
    decodeTx (pending .wait2 .query 0 v1Frame).cuFrame = none := by decide

theorem witness_FailedWriteReported :
    (with' pulse3 [.txAnswer (.fail 0)]).events = .txAnswer (.fail 0) :: [] ∧ pulse3.cuPhase ≠ .idle ∧
    (with' pulse3Second [.txAnswer (.fail 8)]).events = .txAnswer (.fail 8) :: [] ∧ pulse3Second.cuPhase ≠ .idle := by
  decide

theorem witness_AnswerNotTakenWhileIdle :
    (with' State.reset [.txAnswer (.fail 3)]).events = .txAnswer (.fail 3) :: [] ∧ State.reset.cuPhase = .idle := by
  decide

theorem witness_CommandUnitFrame :
    ofCommandUnit .frameSetOpen3 = true ∧ ofCommandUnit (.rsvd 0 0 false) = true ∧
    ∃ t, exec .frameSetOpen3 pulse3 = .next t := ⟨by decide, by decide, _, rfl⟩

theorem witness_CommandUnitFrame_answer :
    (with' pulse3 [.txAnswer (.fail 2)]).events = .txAnswer (.fail 2) :: [] ∧
    ∃ t, step (with' pulse3 [.txAnswer (.fail 2)]) = .next t := ⟨by decide, _, rfl⟩

/-- A query frame cut off after three bytes is on the wire, and the first frame of PULSE 3 is offered. -/
theorem witness_CommandSideKept :
    (with' { pulse3 with txLog := [0x55, 0x01, 0x00] } [.txAnswer .ok]).CommandSide ∧
    ∃ t, step (with' { pulse3 with txLog := [0x55, 0x01, 0x00] } [.txAnswer .ok]) = .next t :=
  ⟨⟨by rfl, [(queryFrame, 3)], by decide, by decide⟩, _, rfl⟩

theorem witness_UnansweredWriteHolds :
    let s := with' pulse3 [.cmd 0x0000, .rx [0x34, 1], .accept 0, .cmd 0x0105]
    s.cuPhase ≠ .idle ∧ (∀ e ∈ s.events, leavesWritePending e = true) ∧
    (with' pulse3 [.reset 4]).events = .reset 4 :: [] := by decide

theorem witness_PulseFramesContiguous :
    let es₁ : List Event := [.cmd 0x0000, .rx [0x34, 0x01]]
    let es₂ : List Event := [.accept 0, .rx v1Frame.bytes]
    let s := with' State.reset (.cmd 0x0306 :: es₁ ++ .txAnswer .ok :: es₂ ++ [.txAnswer .ok])
    s.cuPhase = .idle ∧ decodeCmd 0x0306 = .pulse 3 0 true ∧ (3 : Byte).toNat ≤ 3 ∧
    (∀ e ∈ es₁, leavesWritePending e = true) ∧ (∀ e ∈ es₂, leavesWritePending e = true) ∧
    s.events = .cmd 0x0306 :: es₁ ++ .txAnswer .ok :: es₂ ++ [.txAnswer .ok] := by decide

theorem witness_PulseAgainstTwoSets : State.reset.cuPhase = .idle ∧ (3 : Byte).toNat ≤ 3 := by decide

theorem witness_ByteAccumulates : State.reset.rxCnt.toNat < 7 ∧ (holding 6 v1Held).rxCnt.toNat < 7 := by decide

/-- A valid frame and an invalid one. -/
theorem witness_ByteCompletesFrame :
    (holding 7 v1Held).rxCnt = 7 ∧ valid Params.spec ((holding 7 v1Held).completedFrame 0x3B) = true ∧
    valid Params.spec ((holding 7 v1Held).completedFrame 0x3C) = false := by decide

/-- V11: byte 1 is 0xAA, byte 2 is 0x00. -/
theorem witness_BytesOneTwoUnchecked :
    (holding 7 #v[0x34, 0xAA, 0x00, 0x02, 0x01, 0x01, 0x01]).rxCnt = 7 ∧
    (holding 7 #v[0x34, 0xAA, 0x00, 0x02, 0x01, 0x01, 0x01]).rxBuf =
      #v[v1Frame.b0, 0xAA, 0x00, v1Frame.b3, v1Frame.b4, v1Frame.b5, v1Frame.b6] ∧
    chkOk .mod256 (⟨0x34, 0xAA, 0x00, 0x02, 0x01, 0x01, 0x01, 0xE3⟩ : Frame) = true := by decide

theorem witness_StatusFrameOnBoundary :
    State.reset.rxCnt = 0 ∧ valid Params.spec v1Frame = true ∧
    (with' State.reset [.rx v1Frame.bytes]).events = .rx v1Frame.bytes :: [] := by decide

/-- P4: V1 after one stray byte, and after seven. -/
theorem witness_StatusFrameAtAnyPosition :
    (with' (holding 1 #v[0, 0, 0, 0, 0, 0, 0]) [.rx v1Frame.bytes]).events = .rx v1Frame.bytes :: [] ∧
    (with' (holding 7 v1Held) [.rx v1Frame.bytes]).events = .rx v1Frame.bytes :: [] := by decide

/-- A valid frame, and one whose checksum is one high (A4). -/
theorem witness_StatusFrameCompletes :
    (holding 7 v1Held).rxCnt = 7 ∧
    (holding 7 v1Held).rxBuf =
      #v[v1Frame.b0, v1Frame.b1, v1Frame.b2, v1Frame.b3, v1Frame.b4, v1Frame.b5, v1Frame.b6] ∧
    valid Params.spec v1Frame = true ∧ valid Params.spec { v1Frame with b7 := 0x3C } = false := by decide

theorem witness_StatusFrameNotCompletingUnchanged :
    (holding 6 v1Held).rxCnt ≠ 7 ∧
    (holding 7 #v[0x35, 1, 1, 2, 1, 1, 1]).rxBuf ≠
      #v[v1Frame.b0, v1Frame.b1, v1Frame.b2, v1Frame.b3, v1Frame.b4, v1Frame.b5, v1Frame.b6] := by decide

theorem witness_EveryByteIsOneStep :
    (with' (holding 7 v1Held) [.rx [0x3B, 0x34], .cmd 0]).events = .rx (0x3B :: [0x34]) :: [.cmd 0] ∧
    (with' pulse3 [.rx [0x34]]).events = .rx (0x34 :: []) :: [] := by decide

theorem witness_ChunkIsBytesInOrder :
    (with' (holding 5 v1Held) [.rx (v1Frame.bytes ++ v1Frame.bytes)]).events =
      .rx (v1Frame.bytes ++ v1Frame.bytes) :: [] ∧
    (with' State.reset [.rx []]).events = .rx [] :: [] := by decide

/-- A5: V1 and V3 in one chunk, with one byte more. -/
theorem witness_StreamCutInEights :
    let bytes : List Byte := v1Frame.bytes ++ [0x34, 1, 1, 2, 2, 2, 2, 0x3E] ++ [0x34]
    (with' State.reset [.rx bytes]).events = .rx bytes :: [] ∧ State.reset.rxCnt = 0 ∧
    (streamStatus Params.spec bytes).map (·.packed) = [0x1, 0xF] := by decide

/-- V6: the looped-back QUERY; and SET Closed with the marker 0x22. -/
theorem witness_LoopedBackFrameDropped :
    queryFrame ∈ outboundFrames ∧ State.reset.rxCnt = 0 ∧ State.reset.params.inboundMarker ≠ 0x55 ∧
    (with' State.reset [.rx queryFrame.bytes]).events = .rx queryFrame.bytes :: [] ∧
    setFrame 0 .closedReq ∈ outboundFrames ∧ (0x22 : Byte) ≠ 0x55 := by decide

theorem witness_ChecksumMod256 : setFrame 3 .openReq ∈ outboundFrames ∧ queryFrame ∈ outboundFrames := by decide

/-- V11 passes both rules. -/
theorem witness_SignedWideAgainstMod256 :
    chkOk .signedWide ⟨0x34, 0xAA, 0x00, 0x02, 0x01, 0x01, 0x01, 0xE3⟩ = true ∧
    setFrame 2 .openReq ∈ outboundFrames := by decide

theorem witness_DecoderFrame :
    ofCommandUnit (.rxByte 0x3B) = false ∧ ofCommandUnit (.frameStatus v1Frame) = false ∧
    ∃ t, exec (.frameStatus v1Frame) pulse3 = .next t := ⟨by decide, by decide, _, rfl⟩

theorem witness_ObserverChangesNothing :
    (∃ t, step (with' (holding 7 v1Held) [.rx [0x3B]]) = .next t) ∧
    (holding 7 v1Held).params.observer = true ∧
    ({ State.reset with params := { Params.spec with observer := false } } : State).params.observer = false :=
  ⟨⟨_, rfl⟩, by decide, by decide⟩

theorem witness_InterleavingsAgree :
    ∀ e ∈ ([.rx [0x34], .cmd 0x0302, .rx [0x01], .txAnswer .ok, .cmd 0, .rx [0x01], .txAnswer (.fail 2), .accept 0] :
      List Event), commandEvent e = true ∨ ∃ b, e = .rx [b] := by
  simp [commandEvent]

/-- The two states differ in the dead part of `rx_buf` and in `cu_op`, `cu_idx` and `cu_frame`. -/
theorem witness_DeadValuesNeverShow :
    let s := with' (holding 2 v1Held) [.rx [0x01]]
    let t : State := { s with
      rxBuf := #v[0x34, 0x01, 9, 9, 9, 9, 9], cuOp := .pulse, cuIdx := 2, cuFrame := v1Frame, draws := 5 }
    SameLive s t ∧ s ≠ t := by
  unfold SameLive
  decide

/-- A QUERY in flight: only `cu_idx` and the whole of `rx_buf` differ. -/
theorem witness_DeadValuesNeverShow_query :
    let s := with' (pending .wait1 .query 0 queryFrame) [.txAnswer .ok]
    let t : State := { s with cuIdx := 3, rxBuf := v1Held }
    SameLive s t ∧ s ≠ t := by
  unfold SameLive
  decide

theorem witness_ReferenceIsPrefix :
    let chunks : List (List Byte) := [[0x34, 1, 1], [2, 1, 1, 1, 0x3B, 0x34], []]
    let s := with' State.reset [.rx chunks.flatten]
    s.rxCnt = 0 ∧ s.statusLog = [] ∧ s.events = [.rx chunks.flatten] ∧
    (referenceRun s.params chunks).notified = [⟨true, false, false, false⟩] := by decide

end Sys2Proof.Tests
end

section
/-! The step as a reset event takes it, and what the operations leave of the parameters. -/

namespace Sys2Proof.Machine

/-! ### The parameters under each operation (10 R21) -/

@[simp] theorem acceptQuery_params (s : State) : s.acceptQuery.params = s.params := rfl

@[simp] theorem acceptSet_params (idx : Byte) (d : Desired) (s : State) : (s.acceptSet idx d).params = s.params := by
  unfold State.acceptSet
  split <;> simp

@[simp] theorem acceptPulse_params (idx : Byte) (s : State) : (s.acceptPulse idx).params = s.params := by
  unfold State.acceptPulse
  split <;> simp

@[simp] theorem acceptRsvd_params (s : State) : s.acceptRsvd.params = s.params := rfl

@[simp] theorem acceptWord_params (w : CmdWord) (s : State) : (acceptWord w s).params = s.params := by
  unfold acceptWord
  repeat' split
  all_goals simp

@[simp] theorem answerOk_params (s : State) : s.answerOk.params = s.params := by
  by_cases h : s.cuPhase = .wait1 ∧ s.cuOp = .pulse
  · simp [answerOk_first_of_pulse s h.1 h.2]
  · simp [answerOk_last s h]

@[simp] theorem answerFail_params (k : Fin 9) (s : State) : (s.answerFail k).params = s.params := rfl

@[simp] theorem receive_params (b : Byte) (s : State) : (s.receive b).params = s.params := by
  rw [receive_frame]

/-! ### Reset, element by element (10 R34; 70 R140, R141) -/

@[simp] theorem takeReset_rxCnt (k : Fin 9) (s : State) : (s.takeReset k).rxCnt = 0 := rfl

@[simp] theorem takeReset_cuPhase (k : Fin 9) (s : State) : (s.takeReset k).cuPhase = .idle := rfl

theorem takeReset_txLog_idle (k : Fin 9) (s : State) (h : s.cuPhase = .idle) : (s.takeReset k).txLog = s.txLog := by
  rw [State.takeReset, abandon_idle k s h, resetElements_txLog]

@[simp] theorem takeReset_statusLog (k : Fin 9) (s : State) : (s.takeReset k).statusLog = s.statusLog := by
  obtain ⟨-, h⟩ | ⟨-, h⟩ := takeReset_cases k s <;> simp [h]

@[simp] theorem takeReset_respLog (k : Fin 9) (s : State) : (s.takeReset k).respLog = s.respLog := by
  obtain ⟨-, h⟩ | ⟨-, h⟩ := takeReset_cases k s <;> simp [h]

@[simp] theorem takeReset_params (k : Fin 9) (s : State) : (s.takeReset k).params = s.params := by
  obtain ⟨-, h⟩ | ⟨-, h⟩ := takeReset_cases k s <;> simp [h]

/-! ### The step -/

/-- A reset event is always taken: it comes off the script and the block resets. -/
theorem step_reset_event (s : State) (k : Fin 9) (es : List Event) (h : s.events = .reset k :: es) :
    step s = .next (({ s with events := es } : State).takeReset k) :=
  step_reset s _ k (by simp only [fetch, h])

theorem stepEffect_params {s t : State} (h : StepEffect s t) : t.params = s.params := by
  cases h with
  | nothing => rfl
  | held w => exact hold_params w s
  | accepted w => exact acceptWord_params w s
  | answeredOk => exact answerOk_params s
  | answeredFail k => exact answerFail_params k s
  | received b => exact receive_params b s
  | reset k => exact takeReset_params k s

end Sys2Proof.Machine

namespace Sys2Proof

open Sys2Proof.Machine

/-- Settles O15: every effect of a step leaves the parameters, and so does taking its event off the script. -/
theorem parametersNeverWritten : Obligations.ParametersNeverWritten := by
  intro s t h
  obtain ⟨_, _, he⟩ := step_effect s t h
  have hp := stepEffect_params he
  exact hp

/-- Settles O9: the values at construction are read off, and a reset event leaves `takeReset`'s. -/
theorem resetValues : Obligations.ResetValues := by
  refine ⟨⟨rfl, rfl, rfl, rfl, rfl⟩, fun s k es h => ⟨_, step_reset_event s k es h, ?_⟩⟩
  exact ⟨takeReset_rxCnt k _, takeReset_cuPhase k _, takeReset_txLog_idle k { s with events := es },
    takeReset_statusLog k _, takeReset_respLog k _, takeReset_params k _⟩

end Sys2Proof
end

section
/-! The command unit while a write is pending: what comes before the transport's answer goes by, and the answer is taken
(40 R86, 60 R129, 70 R149). -/

namespace Sys2Proof.Machine

/-! ### Runs of some length -/

/-- Some number of steps leads from `s` to `t`. -/
def Reaches (s t : State) : Prop := ∃ n, stepN n s = .next t

theorem Reaches.refl (s : State) : Reaches s s := ⟨0, stepN_zero s⟩

theorem Reaches.head {s t u : State} (h : step s = .next t) : Reaches t u → Reaches s u
  | ⟨n, hn⟩ => ⟨n + 1, (stepN_succ n s t h).trans hn⟩

theorem Reaches.single {s t : State} (h : step s = .next t) : Reaches s t := .head h (.refl t)

theorem Reaches.trans {s t u : State} : Reaches s t → Reaches t u → Reaches s u
  | ⟨n, hn⟩, ⟨m, hm⟩ => ⟨n + m, (stepN_add n m s t hn).trans hm⟩

/-- A whole notification is delivered, one byte a step (41 R111). -/
theorem reaches_receiveAll (bytes : List Byte) (es : List Event) (s : State) (h : s.events = .rx bytes :: es) :
    Reaches s (({ s with events := es } : State).receiveAll bytes) := by
  induction bytes generalizing s with
  | nil => exact .single (step_rx_empty s es h)
  | cons b rest ih =>
    have hstep := step_rx s b rest es h
    rw [receive_with_events] at hstep
    rw [receiveAll_cons, receive_with_events]
    cases rest with
    | nil => exact .single hstep
    | cons c rest => exact .head hstep (ih { s.receive b with events := pushRx (c :: rest) es } rfl)

/-! ### The command unit's part of the state -/

/-- The elements of the command unit and what it has put out (10 R25, R26). -/
structure UnitView where
  phase : CuPhase
  op : CuOp
  idx : BitVec 2
  frame : Frame
  tx : List Byte
  resp : List RespCode

/-- The command unit's part of `s`. -/
def State.unitView (s : State) : UnitView := ⟨s.cuPhase, s.cuOp, s.cuIdx, s.cuFrame, s.txLog, s.respLog⟩

@[simp] theorem hold_unitView (w : CmdWord) (s : State) : (s.hold w).unitView = s.unitView := rfl

@[simp] theorem withEvents_unitView (es : List Event) (s : State) :
    ({ s with events := es } : State).unitView = s.unitView := rfl

@[simp] theorem receiveAll_unitView (bytes : List Byte) (s : State) : (s.receiveAll bytes).unitView = s.unitView := by
  rw [receiveAll_frame]; rfl

@[simp] theorem receiveAll_events (bytes : List Byte) (s : State) : (s.receiveAll bytes).events = s.events := by
  rw [receiveAll_frame]

@[simp] theorem answerOk_events (s : State) : s.answerOk.events = s.events := by
  unfold State.answerOk; split <;> rfl

theorem cuPhase_of_unitView {s t : State} (h : t.unitView = s.unitView) : t.cuPhase = s.cuPhase :=
  congrArg UnitView.phase h

/-- An OK answer reads and writes the command unit's part only. -/
theorem answerOk_unitView_congr {s t : State} (h : t.unitView = s.unitView) :
    t.answerOk.unitView = s.answerOk.unitView := by
  obtain ⟨hphase, hop, hidx, hframe, htx, hresp⟩ := UnitView.mk.inj h
  by_cases hfirst : s.cuPhase = .wait1 ∧ s.cuOp = .pulse
  · rw [answerOk_first_of_pulse s hfirst.1 hfirst.2,
      answerOk_first_of_pulse t (hphase.trans hfirst.1) (hop.trans hfirst.2)]
    simp [State.unitView, *]
  · rw [answerOk_last s hfirst, answerOk_last t (by rwa [hphase, hop])]
    simp [State.unitView, *]

/-! ### Events while a write is pending -/

/-- A command presented while a write is pending is held on the port (40 R80). -/
theorem step_cmd_busy (s : State) (w : CmdWord) (es : List Event) (hp : s.cuPhase ≠ .idle)
    (h : s.events = .cmd w :: es) : step s = .next (({ s with events := es } : State).hold w) := by
  rw [step_run s { s with events := es } (decodeCmd w) (by simp only [fetch, h])]
  exact exec_decodeCmd_busy w { s with events := es } hp

/-- No waiting command is accepted while a write is pending (40 R80). -/
theorem step_accept_busy (s : State) (n : Nat) (es : List Event) (hp : s.cuPhase ≠ .idle)
    (h : s.events = .accept n :: es) : step s = .next { s with events := es } :=
  step_quiet s _ (by simp only [fetch, h, fetchHeld, if_neg hp])

/-- The OK answer to the pending write is taken, whether or not the offered frame is a row of the table (40 R86). -/
theorem step_answer_ok_busy (s : State) (es : List Event) (hp : s.cuPhase ≠ .idle)
    (h : s.events = .txAnswer .ok :: es) : step s = .next ({ s with events := es } : State).answerOk := by
  cases hd : decodeTx s.cuFrame with
  | some i =>
    rw [step_run s { s with events := es } i (by simp only [fetch, h, fetchAnswer, if_neg hp, hd]),
      exec_of_decodeTx _ _ _ hd]
    exact congrArg _ (sendFrame_offered { s with events := es } hp)
  | none =>
    rw [step_answer s { s with events := es } .ok (by simp only [fetch, h, fetchAnswer, if_neg hp, hd])]
    exact congrArg _ (takeAnswer_ok { s with events := es } hp)

/-- An event that leaves the write pending goes by, and the command unit stays as it is. -/
theorem reaches_past_event (e : Event) (es : List Event) (s : State) (hp : s.cuPhase ≠ .idle)
    (he : leavesWritePending e = true) (h : s.events = e :: es) :
    ∃ t, Reaches s t ∧ t.events = es ∧ t.unitView = s.unitView := by
  cases e with
  | cmd w => exact ⟨_, .single (step_cmd_busy s w es hp h), hold_events w _, hold_unitView w _⟩
  | accept n => exact ⟨_, .single (step_accept_busy s n es hp h), rfl, withEvents_unitView es s⟩
  | rx bytes => exact ⟨_, reaches_receiveAll bytes es s h, by simp, by simp⟩
  | txAnswer a => simp [leavesWritePending] at he
  | reset k => simp [leavesWritePending] at he

theorem reaches_past_events (es rest : List Event) (s : State) (hp : s.cuPhase ≠ .idle)
    (hes : ∀ e ∈ es, leavesWritePending e = true) (h : s.events = es ++ rest) :
    ∃ t, Reaches s t ∧ t.events = rest ∧ t.unitView = s.unitView := by
  induction es generalizing s with
  | nil => exact ⟨s, .refl s, h, rfl⟩
  | cons e es ih =>
    obtain ⟨he, hes⟩ := List.forall_mem_cons.mp hes
    obtain ⟨t, hst, htev, htv⟩ := reaches_past_event e (es ++ rest) s hp he h
    obtain ⟨u, htu, huev, huv⟩ := ih t (by rwa [cuPhase_of_unitView htv]) hes htev
    exact ⟨u, hst.trans htu, huev, huv.trans htv⟩

/-- Whatever comes before the OK answer to a pending write, the command unit ends up where the answer alone takes
it. -/
theorem reaches_answerOk (es rest : List Event) (s : State) (hp : s.cuPhase ≠ .idle)
    (hes : ∀ e ∈ es, leavesWritePending e = true) (h : s.events = es ++ .txAnswer .ok :: rest) :
    ∃ t, Reaches s t ∧ t.events = rest ∧ t.unitView = s.answerOk.unitView := by
  obtain ⟨t, hst, htev, htv⟩ := reaches_past_events es _ s hp hes h
  have hstep := step_answer_ok_busy t rest (by rwa [cuPhase_of_unitView htv]) htev
  exact ⟨_, hst.trans (.single hstep), answerOk_events _, answerOk_unitView_congr htv⟩

/-! ### PULSE, write by write (40 R84, R86) -/

/-- The state in which a legal PULSE has its first frame on offer (40 R84). -/
def State.offerPulse (idx : Byte) (s : State) : State :=
  { s with
    cuPhase := .wait1, cuOp := .pulse, cuIdx := idx.setWidth 2, cuFrame := setFrame (idx.setWidth 2) .openReq }

theorem acceptPulse_legal (idx : Byte) (s : State) (h : idx.toNat ≤ 3) : s.acceptPulse idx = s.offerPulse idx :=
  if_pos ((legalIndex_iff idx).mpr h)

/-- A legal PULSE presented in IDLE is accepted in one step. -/
theorem step_pulse_idle (s : State) (w : CmdWord) (idx : Byte) (rsv : BitVec 5) (d : Bool) (es : List Event)
    (hp : s.cuPhase = .idle) (hw : decodeCmd w = .pulse idx rsv d) (hidx : idx.toNat ≤ 3)
    (h : s.events = .cmd w :: es) : step s = .next (({ s with events := es } : State).offerPulse idx) := by
  rw [step_run s { s with events := es } (.pulse idx rsv d) (by simp only [fetch, h, hw]),
    ← acceptPulse_legal idx _ hidx]
  exact congrArg _ (present_idle { s with events := es } _ _ hp)

/-- The two OK answers of a PULSE put its two frames on the wire, one directly after the other, and give one RESP. -/
theorem answerOk_answerOk_of_pulse (s : State) (h1 : s.cuPhase = .wait1) (h2 : s.cuOp = .pulse) :
    s.answerOk.answerOk.unitView =
      ⟨.idle, .pulse, s.cuIdx, setFrame s.cuIdx .closedReq,
        s.txLog ++ s.cuFrame.bytes ++ (setFrame s.cuIdx .closedReq).bytes, s.respLog ++ [.ok]⟩ := by
  rw [answerOk_first_of_pulse s h1 h2, answerOk_last _ (by simp)]
  simp [State.unitView, h2]

/-- Whatever comes before and between the two OK answers to a PULSE in flight, the command unit ends up where the two
answers alone take it. -/
theorem reaches_end_of_pulse (es₁ es₂ rest : List Event) (s : State) (h1 : s.cuPhase = .wait1) (h2 : s.cuOp = .pulse)
    (hes₁ : ∀ e ∈ es₁, leavesWritePending e = true) (hes₂ : ∀ e ∈ es₂, leavesWritePending e = true)
    (h : s.events = es₁ ++ .txAnswer .ok :: (es₂ ++ .txAnswer .ok :: rest)) :
    ∃ t, Reaches s t ∧ t.events = rest ∧ t.unitView = s.answerOk.answerOk.unitView := by
  obtain ⟨t, hst, htev, htv⟩ := reaches_answerOk es₁ _ s (by simp [h1]) hes₁ h
  have htphase : t.cuPhase = .wait2 := by
    rw [cuPhase_of_unitView htv, answerOk_first_of_pulse s h1 h2, setPhase_cuPhase]
  obtain ⟨u, htu, huev, huv⟩ := reaches_answerOk es₂ rest t (by simp [htphase]) hes₂ htev
  exact ⟨u, hst.trans htu, huev, huv.trans (answerOk_unitView_congr htv)⟩

end Sys2Proof.Machine

namespace Sys2Proof

open Sys2Proof.Machine

/-- Settles O35: between the acceptance and the first answer, and between the two answers, the command unit does not
move, so the run's effect on it is that of the two answers alone. -/
theorem pulseFramesContiguous : Obligations.PulseFramesContiguous := by
  intro s w idx rsv d es₁ es₂ hidle hw hidx hes₁ hes₂ hev
  rw [List.append_assoc] at hev
  have hacc := step_pulse_idle s w idx rsv d _ hidle hw hidx hev
  obtain ⟨t, hrun, htev, htv⟩ :=
    reaches_end_of_pulse es₁ es₂ [] (({ s with events := _ } : State).offerPulse idx) rfl rfl hes₁ hes₂ rfl
  obtain ⟨n, hn⟩ := Reaches.head hacc hrun
  rw [answerOk_answerOk_of_pulse _ rfl rfl] at htv
  obtain ⟨hphase, -, -, -, htx, hresp⟩ := UnitView.mk.inj htv
  exact ⟨n, t, hn, htev, hphase, hresp, htx⟩

end Sys2Proof
end

section
/-! The fields of a command word as arithmetic on its value, and what the acceptance of a command reads of them (30 R70,
R72). -/

namespace Sys2Proof

open Sys2Proof.Machine

/-! ### The four fields (30 R70) -/

theorem cmdIdx_eq (w : CmdWord) : cmdIdx w = BitVec.ofNat 8 (w.toNat / 256) := by
  rw [cmdIdx, BitVec.extractLsb', Nat.shiftRight_eq_div_pow]

theorem cmdRsv_eq (w : CmdWord) : cmdRsv w = BitVec.ofNat 5 (w.toNat / 8) := by
  rw [cmdRsv, BitVec.extractLsb', Nat.shiftRight_eq_div_pow]

theorem cmdD_eq (w : CmdWord) : cmdD w = w.toNat.testBit 2 := rfl

theorem cmdOp_toNat (w : CmdWord) : (cmdOp w).toNat = w.toNat % 4 := by
  rw [cmdOp, BitVec.extractLsb'_toNat, Nat.shiftRight_zero]

/-- The operation a word selects is the one whose code is its value mod 4. -/
theorem cmdOp_eq_of_mod {w : CmdWord} {op : BitVec 2} (h : w.toNat % 4 = op.toNat) : cmdOp w = op :=
  BitVec.eq_of_toNat_eq ((cmdOp_toNat w).trans h)

/-- Settles O4: the operation code is the word's value mod 4, and each of its four values selects one row. -/
theorem commandWordFields : Obligations.CommandWordFields := by
  intro w
  rw [← cmdIdx_eq, ← cmdRsv_eq, ← cmdD_eq]
  obtain h | h | h | h : w.toNat % 4 = 0 ∨ w.toNat % 4 = 1 ∨ w.toNat % 4 = 2 ∨ w.toNat % 4 = 3 := by omega
  · simp [decodeCmd, cmdOp_eq_of_mod (op := 0) h, h]
  · simp [decodeCmd, cmdOp_eq_of_mod (op := 1) h, h, Desired.ofBit]
  · simp [decodeCmd, cmdOp_eq_of_mod (op := 2) h, h]
  · simp [decodeCmd, cmdOp_eq_of_mod (op := 3) h, h]

/-! ### A command word built from its fields -/

theorem decodeCmd_set (idx : Byte) (rsv : BitVec 5) (d : Bool) :
    decodeCmd (cmdWord idx rsv d 1) = .set idx rsv (Desired.ofBit d) := by
  simp [decodeCmd, cmdOp_cmdWord, cmdIdx_cmdWord, cmdRsv_cmdWord, cmdD_cmdWord]

theorem decodeCmd_pulse (idx : Byte) (rsv : BitVec 5) (d : Bool) :
    decodeCmd (cmdWord idx rsv d 2) = .pulse idx rsv d := by
  simp [decodeCmd, cmdOp_cmdWord, cmdIdx_cmdWord, cmdRsv_cmdWord, cmdD_cmdWord]

end Sys2Proof

namespace Sys2Proof.Machine

/-! ### Acceptance in IDLE (40 R82 to R85) -/

theorem exec_query_idle (idx : Byte) (rsv : BitVec 5) (d : Bool) (s : State) (h : s.cuPhase = .idle) :
    exec (.query idx rsv d) s = .next s.acceptQuery := congrArg _ (present_idle s _ _ h)

theorem exec_set_idle (idx : Byte) (rsv : BitVec 5) (d : Desired) (s : State) (h : s.cuPhase = .idle) :
    exec (.set idx rsv d) s = .next (s.acceptSet idx d) := congrArg _ (present_idle s _ _ h)

theorem exec_pulse_idle (idx : Byte) (rsv : BitVec 5) (d : Bool) (s : State) (h : s.cuPhase = .idle) :
    exec (.pulse idx rsv d) s = .next (s.acceptPulse idx) := congrArg _ (present_idle s _ _ h)

theorem exec_rsvd_idle (idx : Byte) (rsv : BitVec 5) (d : Bool) (s : State) (h : s.cuPhase = .idle) :
    exec (.rsvd idx rsv d) s = .next s.acceptRsvd := congrArg _ (present_idle s _ _ h)

theorem acceptSet_illegal (idx : Byte) (d : Desired) (s : State) (h : 3 < idx.toNat) :
    s.acceptSet idx d = s.raise .invalidIndex := if_neg (by rw [legalIndex_iff]; omega)

theorem acceptPulse_illegal (idx : Byte) (s : State) (h : 3 < idx.toNat) :
    s.acceptPulse idx = s.raise .invalidIndex := if_neg (by rw [legalIndex_iff]; omega)

end Sys2Proof.Machine

namespace Sys2Proof

open Sys2Proof.Machine

/-- Settles O23: the acceptance of each command does not take the ignored fields, and the two rejections are one
RESP. -/
theorem ignoredFieldsChangeNothing : Obligations.IgnoredFieldsChangeNothing := by
  intro s idx idx' rsv rsv' d d' want hidle
  simp only [exec_query_idle _ _ _ _ hidle, exec_set_idle _ _ _ _ hidle, exec_pulse_idle _ _ _ _ hidle,
    exec_rsvd_idle _ _ _ _ hidle]
  refine ⟨trivial, trivial, trivial, trivial, rfl, fun hidx => ?_⟩
  rw [acceptSet_illegal idx want s hidx, acceptPulse_illegal idx s hidx]
  exact ⟨rfl, rfl⟩

end Sys2Proof
end

section
/-! The checksum in its two readings, the validity rule, the outbound frames and the packed vector (30 R62 to R69). -/

namespace Sys2Proof.Machine

/-! ### The checksum (30 R62, R63) -/

theorem chk_toNat (f : Frame) :
    (chk f).toNat =
      (f.b0.toNat + f.b1.toNat + f.b2.toNat + f.b3.toNat + f.b4.toNat + f.b5.toNat + f.b6.toNat) % 256 :=
  BitVec.toNat_ofNat _ _

theorem chkOk_mod256_iff (f : Frame) : chkOk .mod256 f = true ↔ chk f = f.b7 := beq_iff_eq

theorem chkOk_signedWide_iff (f : Frame) : chkOk .signedWide f = true ↔ signedSum f = f.b7.toInt := beq_iff_eq

theorem valid_iff (p : Params) (f : Frame) :
    valid p f = true ↔ f.b0 = p.inboundMarker ∧ chkOk p.checksumRule f = true := by
  rw [valid, Bool.and_eq_true, beq_iff_eq]

/-- The checksum is the signed sum cut to eight bits: both are the sum of the seven bytes as bytes. -/
theorem chk_eq_ofInt_signedSum (f : Frame) : chk f = BitVec.ofInt 8 (signedSum f) := by
  simp only [chk, signedSum, BitVec.ofNat_add, BitVec.ofNat_toNat, BitVec.setWidth_eq, BitVec.ofInt_add,
    BitVec.ofInt_toInt]

/-- A signed sum that equals the signed byte 7 still equals it when both are cut to eight bits. -/
theorem chkOk_mod256_of_signedWide (f : Frame) (h : chkOk .signedWide f = true) : chkOk .mod256 f = true := by
  rw [chkOk_signedWide_iff] at h
  rw [chkOk_mod256_iff, chk_eq_ofInt_signedSum, h, BitVec.ofInt_toInt]

/-! ### The outbound frames (30 R64, R65, R73) -/

/-- A set frame carries its checksum: `chk` does not read byte 7. -/
theorem setFrame_b7 (idx : BitVec 2) (d : Desired) : (setFrame idx d).b7 = chk (setFrame idx d) := rfl

theorem setFrame_mem_outboundFrames (idx : BitVec 2) (d : Desired) : setFrame idx d ∈ outboundFrames := by
  cases d with
  | openReq => revert idx; decide
  | closedReq => rw [setFrame_closed_any idx 0]; decide

/-- The operand bytes of a set frame are the baseline with the one at the index replaced (30 R65). -/
theorem setOperands_eq (idx : BitVec 2) (d : Desired) :
    [setOperand idx d 0, setOperand idx d 1, setOperand idx d 2, setOperand idx d 3] =
      List.set [0x01, 0x01, 0x01, 0x01] idx.toNat (operandByte d) := by
  cases d <;> revert idx <;> decide

theorem operandByte_eq_ite (d : Desired) : operandByte d = if d = .openReq then 0x02 else 0x01 := by
  cases d <;> rfl

/-! ### The packed vector (30 R69) -/

/-- Four bits never carry out of the packed form. -/
theorem packed_toNat (v : RelayVector) :
    v.packed.toNat = v.v3.toNat * 8 + v.v2.toNat * 4 + v.v1.toNat * 2 + v.v0.toNat := by
  have h0 := v.v0.toNat_lt; have h1 := v.v1.toNat_lt; have h2 := v.v2.toNat_lt; have h3 := v.v3.toNat_lt
  rw [RelayVector.packed, BitVec.toNat_ofNat, Nat.mod_eq_of_lt (by omega)]

/-- The packed form is the four lanes side by side, lane 3 first. -/
theorem packed_eq_append (v : RelayVector) :
    v.packed = BitVec.ofBool v.v3 ++ BitVec.ofBool v.v2 ++ BitVec.ofBool v.v1 ++ BitVec.ofBool v.v0 := by
  obtain ⟨v0, v1, v2, v3⟩ := v
  revert v0 v1 v2 v3
  decide

end Sys2Proof.Machine

namespace Sys2Proof

open Sys2Proof.Machine

/-- Settles O50: byte 7 of the query frame is its checksum, and a set frame's is by construction. -/
theorem checksumMod256 : Obligations.ChecksumMod256 := by
  refine ⟨chk_toNat, chkOk_mod256_iff, ?_, setFrame_mem_outboundFrames⟩
  have hquery : queryFrame.b7 = chk queryFrame := by decide
  simp [outboundFrames, setFrame_b7, hquery]

/-- Settles O51: the signed check implies the other; V10 of spec 95 separates them; both pass on every outbound
frame. -/
theorem signedWideAgainstMod256 : Obligations.SignedWideAgainstMod256 := by
  refine ⟨chkOk_signedWide_iff, chkOk_mod256_of_signedWide,
    ⟨⟨0x34, 0x50, 0x50, 2, 2, 2, 2, 0xDC⟩, by decide, by decide⟩, ?_⟩
  have hsigned : ∀ f ∈ outboundFrames, chkOk .signedWide f = true := by decide
  intro f hf
  rw [hsigned f hf, chkOk_mod256_of_signedWide f (hsigned f hf)]

/-- Settles O40: the marker check and the check of the rule in force, each read as arithmetic. -/
theorem validityRule : Obligations.ValidityRule := by
  intro p f
  rw [valid_iff]
  refine and_congr_right fun _ => ?_
  cases p.checksumRule with
  | mod256 => rw [chkOk_mod256_iff, ← BitVec.toNat_inj, chk_toNat]
  | signedWide => exact chkOk_signedWide_iff f

/-- Settles O7: the four operand bytes are the edited baseline, and byte 7 is the checksum. -/
theorem outboundFrameConstruction : Obligations.OutboundFrameConstruction := by
  refine ⟨rfl, fun idx d => ?_⟩
  rw [← operandByte_eq_ite, ← setOperands_eq]
  rfl

/-- Settles O53: the packed form is the lanes side by side, and four bits hold their sum. -/
theorem vectorPacking : Obligations.VectorPacking := by
  refine ⟨fun v => ⟨packed_toNat v, ?_⟩, rfl⟩
  simp only [packed_eq_append, BitVec.getLsbD_append]
  simp

end Sys2Proof
end

section
/-! PULSE against two SETs: each command with the answers to its writes, as runs of steps (30 R77). -/

namespace Sys2Proof.Machine

/-- The state in which a legal SET has its frame on offer (40 R83). -/
def State.offerSet (idx : Byte) (d : Desired) (s : State) : State :=
  { s with cuPhase := .wait1, cuOp := .set, cuIdx := idx.setWidth 2, cuFrame := setFrame (idx.setWidth 2) d }

theorem acceptSet_legal (idx : Byte) (d : Desired) (s : State) (h : idx.toNat ≤ 3) :
    s.acceptSet idx d = s.offerSet idx d := if_pos ((legalIndex_iff idx).mpr h)

/-- A legal SET presented in IDLE is accepted in one step. -/
theorem step_set_idle (s : State) (idx : Byte) (rsv : BitVec 5) (d : Bool) (es : List Event) (hp : s.cuPhase = .idle)
    (hidx : idx.toNat ≤ 3) (h : s.events = .cmd (cmdWord idx rsv d 1) :: es) :
    step s = .next (({ s with events := es } : State).offerSet idx (Desired.ofBit d)) := by
  rw [step_run s { s with events := es } (.set idx rsv (Desired.ofBit d)) (by simp only [fetch, h, decodeCmd_set]),
    exec_set_idle _ _ _ { s with events := es } hp, acceptSet_legal _ _ _ hidx]

/-- The answer FAIL(k) to the pending write is taken (40 R86). -/
theorem step_answer_fail_busy (s : State) (k : Fin 9) (es : List Event) (hp : s.cuPhase ≠ .idle)
    (h : s.events = .txAnswer (.fail k) :: es) : step s = .next (({ s with events := es } : State).answerFail k) := by
  rw [step_answer s { s with events := es } (.fail k) (by simp only [fetch, h, fetchAnswer, if_neg hp]),
    takeAnswer_fail k { s with events := es } hp]

/-- A legal SET answered OK: its frame is on the wire, with one RESP, and the unit is idle again. -/
def State.setDone (idx : Byte) (d : Desired) (s : State) : State :=
  { s.offerSet idx d with
    cuPhase := .idle
    txLog := s.txLog ++ (setFrame (idx.setWidth 2) d).bytes
    respLog := s.respLog ++ [.ok] }

theorem answerOk_offerSet (idx : Byte) (d : Desired) (s : State) : (s.offerSet idx d).answerOk = s.setDone idx d :=
  answerOk_last _ (by simp [State.offerSet])

theorem stepN_set_ok (s : State) (idx : Byte) (rsv : BitVec 5) (d : Bool) (es : List Event) (hp : s.cuPhase = .idle)
    (hidx : idx.toNat ≤ 3) (h : s.events = .cmd (cmdWord idx rsv d 1) :: .txAnswer .ok :: es) :
    stepN 2 s = .next (({ s with events := es } : State).setDone idx (Desired.ofBit d)) := by
  rw [stepN_succ _ _ _ (step_set_idle s idx rsv d _ hp hidx h),
    stepN_succ _ _ _ (step_answer_ok_busy _ es (by simp [State.offerSet]) rfl), ← answerOk_offerSet]
  rfl

theorem stepN_two_sets_ok (s : State) (idx : Byte) (rsv : BitVec 5) (d d' : Bool) (es : List Event)
    (hp : s.cuPhase = .idle) (hidx : idx.toNat ≤ 3)
    (h : s.events =
      .cmd (cmdWord idx rsv d 1) :: .txAnswer .ok :: .cmd (cmdWord idx rsv d' 1) :: .txAnswer .ok :: es) :
    stepN 4 s =
      .next ((({ s with events := es } : State).setDone idx (Desired.ofBit d)).setDone idx (Desired.ofBit d')) :=
  (stepN_add 2 2 _ _ (stepN_set_ok s idx rsv d _ hp hidx h)).trans (stepN_set_ok _ idx rsv d' es rfl hidx rfl)

/-- A legal PULSE after the OK to its first write: the Open frame is on the wire and the Closed frame on offer. -/
def State.pulseOpened (idx : Byte) (s : State) : State :=
  { s.offerPulse idx with
    cuPhase := .wait2
    cuFrame := setFrame (idx.setWidth 2) .closedReq
    txLog := s.txLog ++ (setFrame (idx.setWidth 2) .openReq).bytes }

theorem answerOk_offerPulse (idx : Byte) (s : State) : (s.offerPulse idx).answerOk = s.pulseOpened idx :=
  answerOk_first_of_pulse _ rfl rfl

theorem stepN_pulse_ok (s : State) (idx : Byte) (rsv : BitVec 5) (d : Bool) (es : List Event) (hp : s.cuPhase = .idle)
    (hidx : idx.toNat ≤ 3) (h : s.events = .cmd (cmdWord idx rsv d 2) :: .txAnswer .ok :: es) :
    stepN 2 s = .next (({ s with events := es } : State).pulseOpened idx) := by
  rw [stepN_succ _ _ _ (step_pulse_idle s _ idx rsv d _ hp (decodeCmd_pulse idx rsv d) hidx h),
    stepN_succ _ _ _ (step_answer_ok_busy _ es (by simp [State.offerPulse]) rfl), ← answerOk_offerPulse]
  rfl

end Sys2Proof.Machine
namespace Sys2Proof

open Sys2Proof.Machine

/-- Settles O36: a PULSE's first write answered OK leaves its Open frame on the wire and its Closed frame on offer, and
each part goes on from there; the two SETs are two runs of `stepN_set_ok`. -/
theorem pulseAgainstTwoSets : Obligations.PulseAgainstTwoSets := by
  intro s idx rsv hidle hidx pulse
  have hopened (e : Event) (es : List Event) :
      stepN 2 { s with events := pulse :: .txAnswer .ok :: e :: es } =
        .next (({ s with events := e :: es } : State).pulseOpened idx) :=
    stepN_pulse_ok _ idx rsv false _ hidle hidx rfl
  refine ⟨?_, fun w => ?_, fun k => ?_⟩
  · have hpulse := (stepN_add 2 1 _ _ (hopened (.txAnswer .ok) [])).trans
      (stepN_succ 0 _ _ (step_answer_ok_busy _ [] (by simp [State.pulseOpened]) rfl))
    refine ⟨_, _, hpulse, stepN_two_sets_ok _ idx rsv true false [] hidle hidx rfl, ?_⟩
    rw [answerOk_last _ (by simp [State.pulseOpened])]
    exact ⟨rfl, rfl, rfl, rfl, List.append_assoc _ _ _⟩
  · have hheld := (stepN_add 2 1 _ _ (hopened (.cmd w) [])).trans
      (stepN_succ 0 _ _ (step_cmd_busy _ w [] (by simp [State.pulseOpened]) rfl))
    exact ⟨_, hheld, rfl, rfl, rfl⟩
  · have haccepted := step_pulse_idle { s with events := [pulse, .txAnswer (.fail k)] } _ idx rsv false _ hidle
      (decodeCmd_pulse idx rsv false) hidx rfl
    have hfailed := (stepN_succ 1 _ _ haccepted).trans
      (stepN_succ 0 _ _ (step_answer_fail_busy _ k [] (by simp [State.offerPulse]) rfl))
    exact ⟨_, hfailed, rfl, rfl, rfl⟩

end Sys2Proof
end

section
/-! The host commands and the answers to their writes as whole next states (40 R82 to R86, R89), and what the command
unit leaves unchanged (40 R91). -/

namespace Sys2Proof.Machine

/-! ### The answers to a pending write (40 R86) -/

/-- OK to the last write of a command: the frame is on the wire, with RESP OK, and the unit is idle. -/
theorem step_answer_ok_last (s : State) (es : List Event) (hp : s.cuPhase ≠ .idle)
    (hlast : ¬(s.cuPhase = .wait1 ∧ s.cuOp = .pulse)) (h : s.events = .txAnswer .ok :: es) :
    step s =
      .next { s with
        events := es, cuPhase := .idle, respLog := s.respLog ++ [.ok], txLog := s.txLog ++ s.cuFrame.bytes } :=
  (step_answer_ok_busy s es hp h).trans (congrArg _ (answerOk_last { s with events := es } hlast))

/-- FAIL(k) to any write: its first k bytes are on the wire, with RESP TRANSPORT_ERROR, and the unit is idle. -/
theorem step_answer_fail_busy_eq (s : State) (k : Fin 9) (es : List Event) (hp : s.cuPhase ≠ .idle)
    (h : s.events = .txAnswer (.fail k) :: es) :
    step s =
      .next { s with
        events := es, cuPhase := .idle, respLog := s.respLog ++ [.transportError]
        txLog := s.txLog ++ s.cuFrame.bytes.take k.val } :=
  step_answer_fail_busy s k es hp h

/-- An answer while no write is pending only leaves the script (70 R141). -/
theorem step_answer_idle (s : State) (a : TxAnswer) (es : List Event) (hp : s.cuPhase = .idle)
    (h : s.events = .txAnswer a :: es) : step s = .next { s with events := es } :=
  step_quiet s _ (by simp only [fetch, h, fetchAnswer, if_pos hp])

/-- Whatever the phase, an answer event comes off the script and the unit takes it or not. -/
theorem step_answer_event (s : State) (a : TxAnswer) (es : List Event) (h : s.events = .txAnswer a :: es) :
    step s = .next (({ s with events := es } : State).takeAnswer a) := by
  by_cases hp : s.cuPhase = .idle
  · rw [step_answer_idle s a es hp h, takeAnswer_idle a { s with events := es } hp]
  · cases a with
    | ok => rw [step_answer_ok_busy s es hp h, takeAnswer_ok { s with events := es } hp]
    | fail k => rw [step_answer_fail_busy s k es hp h, takeAnswer_fail k { s with events := es } hp]

/-! ### Acceptance and rejection (40 R83, R84) -/

theorem exec_set_illegal (idx : Byte) (rsv : BitVec 5) (d : Desired) (s : State) (hp : s.cuPhase = .idle)
    (hidx : 3 < idx.toNat) :
    exec (.set idx rsv d) s = .next { s with respLog := s.respLog ++ [.invalidIndex] } :=
  (exec_set_idle idx rsv d s hp).trans (congrArg _ (acceptSet_illegal idx d s hidx))

theorem exec_set_legal (idx : Byte) (rsv : BitVec 5) (d : Desired) (s : State) (hp : s.cuPhase = .idle)
    (hidx : idx.toNat ≤ 3) : exec (.set idx rsv d) s = .next (s.offerSet idx d) :=
  (exec_set_idle idx rsv d s hp).trans (congrArg _ (acceptSet_legal idx d s hidx))

theorem exec_pulse_illegal (idx : Byte) (rsv : BitVec 5) (d : Bool) (s : State) (hp : s.cuPhase = .idle)
    (hidx : 3 < idx.toNat) :
    exec (.pulse idx rsv d) s = .next { s with respLog := s.respLog ++ [.invalidIndex] } :=
  (exec_pulse_idle idx rsv d s hp).trans (congrArg _ (acceptPulse_illegal idx s hidx))

theorem exec_pulse_legal (idx : Byte) (rsv : BitVec 5) (d : Bool) (s : State) (hp : s.cuPhase = .idle)
    (hidx : idx.toNat ≤ 3) : exec (.pulse idx rsv d) s = .next (s.offerPulse idx) :=
  (exec_pulse_idle idx rsv d s hp).trans (congrArg _ (acceptPulse_legal idx s hidx))

/-- The closed-request frame, byte by byte (40 R88). -/
theorem setFrame_closed_bytes (idx : BitVec 2) :
    setFrame idx .closedReq = ⟨0x55, 0x01, 0x01, 0x01, 0x01, 0x01, 0x01, 0x5B⟩ :=
  (setFrame_closed_any idx 0).trans (by decide)

/-! ### What the command unit leaves unchanged (40 R91) -/

/-- `t` has the decoder's elements, the STATUS events, the parameters, the script and the draw count of `s`; its wire
and its RESP events continue those of `s`. -/
structure UnitFrame (s t : State) : Prop where
  rxCnt : t.rxCnt = s.rxCnt
  rxBuf : t.rxBuf = s.rxBuf
  statusLog : t.statusLog = s.statusLog
  params : t.params = s.params
  events : t.events = s.events
  draws : t.draws = s.draws
  txLog : s.txLog <+: t.txLog
  respLog : s.respLog <+: t.respLog

theorem UnitFrame.refl (s : State) : UnitFrame s s :=
  ⟨rfl, rfl, rfl, rfl, rfl, rfl, List.prefix_rfl, List.prefix_rfl⟩

theorem UnitFrame.trans {s t u : State} (h : UnitFrame s t) (h' : UnitFrame t u) : UnitFrame s u :=
  ⟨h'.rxCnt.trans h.rxCnt, h'.rxBuf.trans h.rxBuf, h'.statusLog.trans h.statusLog, h'.params.trans h.params,
    h'.events.trans h.events, h'.draws.trans h.draws, h.txLog.trans h'.txLog, h.respLog.trans h'.respLog⟩

theorem unitFrame_respond (c : RespCode) (s : State) : UnitFrame s (s.respond c) :=
  ⟨rfl, rfl, rfl, rfl, rfl, rfl, List.prefix_rfl, List.prefix_append _ _⟩

theorem unitFrame_appendTx (bytes : List Byte) (s : State) : UnitFrame s (s.appendTx bytes) :=
  ⟨rfl, rfl, rfl, rfl, rfl, rfl, List.prefix_append _ _, List.prefix_rfl⟩

theorem unitFrame_txWrite (f : Frame) (s : State) : UnitFrame s (s.txWrite f) := { UnitFrame.refl s with }

theorem unitFrame_setPhase (ph : CuPhase) (s : State) : UnitFrame s (s.setPhase ph) := { UnitFrame.refl s with }

theorem unitFrame_hold (w : CmdWord) (s : State) : UnitFrame s (s.hold w) := { UnitFrame.refl s with }

theorem unitFrame_acceptQuery (s : State) : UnitFrame s s.acceptQuery := { UnitFrame.refl s with }

theorem unitFrame_acceptSet (idx : Byte) (d : Desired) (s : State) : UnitFrame s (s.acceptSet idx d) := by
  by_cases hidx : idx.toNat ≤ 3
  · rw [acceptSet_legal idx d s hidx]
    exact { UnitFrame.refl s with }
  · rw [acceptSet_illegal idx d s (by omega)]
    exact unitFrame_respond _ s

theorem unitFrame_acceptPulse (idx : Byte) (s : State) : UnitFrame s (s.acceptPulse idx) := by
  by_cases hidx : idx.toNat ≤ 3
  · rw [acceptPulse_legal idx s hidx]
    exact { UnitFrame.refl s with }
  · rw [acceptPulse_illegal idx s (by omega)]
    exact unitFrame_respond _ s

theorem unitFrame_present {s t : State} (w : CmdWord) (h : UnitFrame s t) : UnitFrame s (s.present w t) := by
  by_cases hp : s.cuPhase = .idle
  · rwa [present_idle s t w hp]
  · rw [present_busy s t w hp]
    exact unitFrame_hold w s

theorem unitFrame_answerOk (s : State) : UnitFrame s s.answerOk := by
  have hsent := unitFrame_appendTx s.cuFrame.bytes s
  by_cases h : s.cuPhase = .wait1 ∧ s.cuOp = .pulse
  · rw [answerOk_first_of_pulse s h.1 h.2]
    exact (hsent.trans (unitFrame_txWrite _ _)).trans (unitFrame_setPhase _ _)
  · rw [answerOk_last s h]
    exact (hsent.trans (unitFrame_respond _ _)).trans (unitFrame_setPhase _ _)

theorem unitFrame_answerFail (k : Fin 9) (s : State) : UnitFrame s (s.answerFail k) :=
  ((unitFrame_appendTx _ s).trans (unitFrame_respond _ _)).trans (unitFrame_setPhase _ _)

theorem unitFrame_takeAnswer (a : TxAnswer) (s : State) : UnitFrame s (s.takeAnswer a) := by
  by_cases hp : s.cuPhase = .idle
  · rw [takeAnswer_idle a s hp]
    exact .refl s
  · cases a with
    | ok => rw [takeAnswer_ok s hp]; exact unitFrame_answerOk s
    | fail k => rw [takeAnswer_fail k s hp]; exact unitFrame_answerFail k s

theorem unitFrame_sendFrame (f : Frame) (s : State) : UnitFrame s (s.sendFrame f) := by
  by_cases h : s.cuPhase = .idle ∨ s.cuFrame ≠ f
  · rw [sendFrame_not_offered f s h]
    exact .refl s
  · obtain ⟨hp, rfl⟩ : s.cuPhase ≠ .idle ∧ s.cuFrame = f := by simpa using h
    rw [sendFrame_offered s hp]
    exact unitFrame_answerOk s

/-- A host command is presented on the port and an outbound row sends its frame; neither does more than `UnitFrame`. -/
theorem unitFrame_exec {i : Instr} {s t : State} (hi : ofCommandUnit i = true) (h : exec i s = .next t) :
    UnitFrame s t := by
  cases i with
  | query => cases h; exact unitFrame_present _ (unitFrame_acceptQuery s)
  | set idx _ d => cases h; exact unitFrame_present _ (unitFrame_acceptSet idx d s)
  | pulse idx => cases h; exact unitFrame_present _ (unitFrame_acceptPulse idx s)
  | rsvd => cases h; exact unitFrame_present _ (unitFrame_respond _ s)
  | frameQuery | frameSetOpen0 | frameSetOpen1 | frameSetOpen2 | frameSetOpen3 | frameSetClosed =>
    cases h; exact unitFrame_sendFrame _ s
  | rxByte | frameStatus => cases hi

@[simp] theorem answerOk_cmdPort (s : State) : s.answerOk.cmdPort = s.cmdPort := by
  by_cases h : s.cuPhase = .wait1 ∧ s.cuOp = .pulse
  · simp [answerOk_first_of_pulse s h.1 h.2]
  · simp [answerOk_last s h]

/-- No answer touches the commands held on the port. -/
@[simp] theorem takeAnswer_cmdPort (a : TxAnswer) (s : State) : (s.takeAnswer a).cmdPort = s.cmdPort := by
  by_cases hp : s.cuPhase = .idle
  · rw [takeAnswer_idle a s hp]
  · cases a with
    | ok => rw [takeAnswer_ok s hp, answerOk_cmdPort]
    | fail k => rw [takeAnswer_fail k s hp]; rfl

end Sys2Proof.Machine

namespace Sys2Proof

open Sys2Proof.Machine

/-- Settles O17: acceptance offers the query frame, and its one write is the command's last. -/
theorem queryCommand : Obligations.QueryCommand := by
  intro s idx rsv d es hidle
  have hbusy : s.acceptQuery.cuPhase ≠ .idle := by simp [State.acceptQuery]
  have hlast : ¬(s.acceptQuery.cuPhase = .wait1 ∧ s.acceptQuery.cuOp = .pulse) := by simp [State.acceptQuery]
  exact ⟨exec_query_idle idx rsv d s hidle,
    step_answer_ok_last { s.acceptQuery with events := .txAnswer .ok :: es } es hbusy hlast rfl,
    fun k => step_answer_fail_busy_eq { s.acceptQuery with events := .txAnswer (.fail k) :: es } k es hbusy rfl⟩

/-- Settles O18: an illegal index is one RESP; a legal one offers its set frame, whose write is the command's last. -/
theorem setCommand : Obligations.SetCommand := by
  intro s idx rsv d es hidle
  refine ⟨exec_set_illegal idx rsv d s hidle, fun hidx => ?_⟩
  have hbusy : (s.offerSet idx d).cuPhase ≠ .idle := by simp [State.offerSet]
  have hlast : ¬((s.offerSet idx d).cuPhase = .wait1 ∧ (s.offerSet idx d).cuOp = .pulse) := by simp [State.offerSet]
  have hclosed (hd : d = .closedReq) :
      setFrame (idx.setWidth 2) d = ⟨0x55, 0x01, 0x01, 0x01, 0x01, 0x01, 0x01, 0x5B⟩ :=
    hd ▸ setFrame_closed_bytes (idx.setWidth 2)
  exact ⟨exec_set_legal idx rsv d s hidle hidx, hclosed,
    step_answer_ok_last { s.offerSet idx d with events := .txAnswer .ok :: es } es hbusy hlast rfl,
    fun k => step_answer_fail_busy_eq { s.offerSet idx d with events := .txAnswer (.fail k) :: es } k es hbusy rfl⟩

/-- Settles O19: an illegal index is one RESP; a legal one offers the Open frame, the first OK offers the Closed frame,
and the write of that frame is the command's last. -/
theorem pulseCommand : Obligations.PulseCommand := by
  intro s idx rsv d es hidle
  refine ⟨exec_pulse_illegal idx rsv d s hidle, fun hidx => ?_⟩
  have hoffer : (s.offerPulse idx).cuPhase ≠ .idle := by simp [State.offerPulse]
  have hopened : (s.pulseOpened idx).cuPhase ≠ .idle := by simp [State.pulseOpened]
  have hlast : ¬((s.pulseOpened idx).cuPhase = .wait1 ∧ (s.pulseOpened idx).cuOp = .pulse) := by
    simp [State.pulseOpened]
  rw [← setFrame_closed_bytes (idx.setWidth 2)]
  exact ⟨exec_pulse_legal idx rsv d s hidle hidx,
    (step_answer_ok_busy { s.offerPulse idx with events := .txAnswer .ok :: es } es hoffer rfl).trans
      (congrArg _ (answerOk_offerPulse idx { s with events := es })),
    fun k => step_answer_fail_busy_eq { s.offerPulse idx with events := .txAnswer (.fail k) :: es } k es hoffer rfl,
    step_answer_ok_last { s.pulseOpened idx with events := .txAnswer .ok :: es } es hopened hlast rfl,
    fun k => step_answer_fail_busy_eq { s.pulseOpened idx with events := .txAnswer (.fail k) :: es } k es hopened rfl⟩

/-- Settles O21: the acceptance of the reserved code is one RESP and does not take the other fields. -/
theorem reservedCommandRejected : Obligations.ReservedCommandRejected :=
  fun s idx rsv d hidle => exec_rsvd_idle idx rsv d s hidle

/-- Settles O31: an instruction of the command unit and an answer both keep `UnitFrame`, and an answer leaves the
port. -/
theorem commandUnitFrame : Obligations.CommandUnitFrame := by
  refine ⟨fun i s t hi h => ?_, fun s t a es hev h => ?_⟩
  · obtain ⟨hcnt, hbuf, hstatus, hparams, hevents, hdraws, htx, hresp⟩ := unitFrame_exec hi h
    exact ⟨hcnt, hbuf, hstatus, hparams, hevents, hdraws, htx, hresp⟩
  · rw [step_answer_event s a es hev] at h
    obtain rfl := Host.Outcome.next.inj h
    obtain ⟨hcnt, hbuf, hstatus, hparams, hevents, hdraws, htx, hresp⟩ :=
      unitFrame_takeAnswer a { s with events := es }
    exact ⟨hcnt, hbuf, hstatus, hparams, hevents, hdraws, takeAnswer_cmdPort a _, htx, hresp⟩

end Sys2Proof
end

section
/-! The delivery of one inbound byte: it is stored or completes a frame, and each is one step (41 R100 to R106). -/

namespace Sys2Proof.Machine

theorem exec_rxByte (b : Byte) (s : State) : exec (.rxByte b) s = .next (s.receive b) := rfl

/-- What is left of a notification, by whether it is empty. -/
theorem pushRx_eq_ite (rest : List Byte) (es : List Event) :
    pushRx rest es = if rest = [] then es else .rx rest :: es := by
  cases rest with
  | nil => rfl
  | cons b rest => exact (if_neg (List.cons_ne_nil b rest)).symm

/-- While fewer than seven bytes are held, the count is a place in the buffer. -/
theorem accumulate_eq_set (b : Byte) (s : State) (h : s.rxCnt.toNat < 7) :
    s.accumulate b = { s with rxBuf := s.rxBuf.set s.rxCnt.toNat b, rxCnt := s.rxCnt + 1 } := by
  have hset : s.rxBuf.setIfInBounds s.rxCnt.toNat b = s.rxBuf.set s.rxCnt.toNat b := by
    ext i hi
    rw [Vector.getElem_setIfInBounds, Vector.getElem_set]
  rw [State.accumulate, hset]

/-- The completing byte gives the frame's vector iff the frame is valid, and starts the next frame either way. -/
theorem receive_completing_ite (b : Byte) (s : State) (h : s.rxCnt = 7) :
    s.receive b =
      { s with
        rxCnt := 0
        statusLog :=
          if valid s.params (s.completedFrame b) then s.statusLog ++ [relayVector (s.completedFrame b)]
          else s.statusLog } := by
  rw [receive_completing b s h, statusOf]
  split
  · rfl
  · simp

theorem completedFrame_of_rxBuf {s : State} {b0 b1 b2 b3 b4 b5 b6 : Byte}
    (h : s.rxBuf = #v[b0, b1, b2, b3, b4, b5, b6]) (b : Byte) :
    s.completedFrame b = ⟨b0, b1, b2, b3, b4, b5, b6, b⟩ := by
  rw [State.completedFrame, h]
  rfl

/-- The vector is read from bytes 3 to 6 (41 R105). -/
theorem relayVector_with_b1_b2 (f : Frame) (c1 c2 : Byte) :
    relayVector { f with b1 := c1, b2 := c2 } = relayVector f := rfl

end Sys2Proof.Machine

namespace Sys2Proof

open Sys2Proof.Machine

/-- Settles O41: the completed frame is `f` with c1 and c2 in places 1 and 2, and its vector is that of `f`. -/
theorem bytesOneTwoUnchecked : Obligations.BytesOneTwoUnchecked := by
  intro s f c1 c2 hcnt hbuf g
  have hframe : s.completedFrame f.b7 = g := completedFrame_of_rxBuf hbuf f.b7
  have hvector : relayVector g = relayVector f := relayVector_with_b1_b2 f c1 c2
  refine ⟨_, exec_rxByte f.b7 s, ?_⟩
  rw [receive_completing_ite _ s hcnt, hframe, hvector]
  exact ⟨rfl, if_congr (valid_iff s.params g) rfl rfl⟩

/-- Settles O47: the row run on a window does what RX_BYTE of its last byte does, and RX_BYTE always answers a next
state. -/
theorem everyByteIsOneStep : Obligations.EveryByteIsOneStep := by
  intro s b rest es h t
  have ht : t = { s with events := pushRx rest es } := by rw [pushRx_eq_ite]
  refine ⟨?_, t.receive b, exec_rxByte b t⟩
  rw [ht, exec_rxByte]
  exact step_rx s b rest es h

/-- Settles O38: below seven the delivery is `accumulate`, whose write is in bounds. -/
theorem byteAccumulates : Obligations.ByteAccumulates := by
  intro s b h
  have hcnt : s.rxCnt ≠ 7 := fun h7 => by simp [h7] at h
  rw [exec_rxByte, receive_accumulating b s hcnt, accumulate_eq_set b s h]

/-- Settles O39: the completing byte's delivery, by whether the frame is valid. -/
theorem byteCompletesFrame : Obligations.ByteCompletesFrame := by
  intro s b hcnt f
  have hframe : s.completedFrame b = f := rfl
  rw [exec_rxByte, receive_completing_ite b s hcnt, hframe]
  split
  · rfl
  · rfl

end Sys2Proof
end

section
/-! How a command ends in an error: the one RESP of its acceptance step or of the transport's answer, and the drop of an
inbound frame, which gives none (60 R121 to R126, R136). -/

namespace Sys2Proof.Machine

/-! ### The acceptance of a command word, by what its fields select -/

theorem cmdIdx_toNat (w : CmdWord) : (cmdIdx w).toNat = w.toNat / 256 := by
  have hw := w.isLt
  rw [cmdIdx_eq, BitVec.toNat_ofNat]
  omega

/-- A command word presented in IDLE is accepted in the step that presents it (40 R80). -/
theorem step_cmd_idle (s : State) (w : CmdWord) (es : List Event) (hp : s.cuPhase = .idle)
    (h : s.events = .cmd w :: es) : step s = .next (acceptWord w { s with events := es }) := by
  rw [step_run s { s with events := es } (decodeCmd w) (by simp only [fetch, h])]
  exact exec_decodeCmd_idle w { s with events := es } hp

theorem acceptWord_query {w : CmdWord} (hop : w.toNat % 4 = 0) (s : State) : acceptWord w s = s.acceptQuery := by
  simp [acceptWord, cmdOp_eq_of_mod (op := 0) hop]

theorem acceptWord_set {w : CmdWord} (hop : w.toNat % 4 = 1) (s : State) :
    acceptWord w s = s.acceptSet (cmdIdx w) (Desired.ofBit (cmdD w)) := by
  simp [acceptWord, cmdOp_eq_of_mod (op := 1) hop]

theorem acceptWord_pulse {w : CmdWord} (hop : w.toNat % 4 = 2) (s : State) :
    acceptWord w s = s.acceptPulse (cmdIdx w) := by
  simp [acceptWord, cmdOp_eq_of_mod (op := 2) hop]

/-- The reserved code is INVALID_COMMAND, whatever IDX holds (60 R123, R126). -/
theorem acceptWord_reserved {w : CmdWord} (hop : w.toNat % 4 = 3) (s : State) :
    acceptWord w s = s.respond .invalidCommand := by
  simp [acceptWord, cmdOp_eq_of_mod (op := 3) hop, State.acceptRsvd]

/-- SET and PULSE check the index before they build a frame (60 R122). -/
theorem acceptWord_illegalIndex {w : CmdWord} (hop : w.toNat % 4 = 1 ∨ w.toNat % 4 = 2) (hidx : 3 < w.toNat / 256)
    (s : State) : acceptWord w s = s.respond .invalidIndex := by
  rw [← cmdIdx_toNat] at hidx
  obtain hop | hop := hop
  · rw [acceptWord_set hop, acceptSet_illegal _ _ s hidx, raise_eq_respond]
  · rw [acceptWord_pulse hop, acceptPulse_illegal _ s hidx, raise_eq_respond]

/-- Every other command word has a frame on offer after its acceptance, and nothing is put out (40 R82 to R84). -/
theorem acceptWord_offers {w : CmdWord} (hop : w.toNat % 4 ≠ 3) (hidx : w.toNat % 4 ≠ 0 → w.toNat / 256 ≤ 3)
    (s : State) :
    ∃ op idx f, acceptWord w s = { s with cuPhase := .wait1, cuOp := op, cuIdx := idx, cuFrame := f } := by
  rw [← cmdIdx_toNat] at hidx
  obtain h | h | h : w.toNat % 4 = 0 ∨ w.toNat % 4 = 1 ∨ w.toNat % 4 = 2 := by omega
  · exact ⟨_, _, _, acceptWord_query h s⟩
  · exact ⟨_, _, _, (acceptWord_set h s).trans (acceptSet_legal _ _ s (hidx (by omega)))⟩
  · exact ⟨_, _, _, (acceptWord_pulse h s).trans (acceptPulse_legal _ s (hidx (by omega)))⟩

/-! ### The drop of an inbound frame (41 R104) -/

theorem valid_completedFrame_eq_false (b : Byte) (s : State)
    (h : s.rxBuf[0] ≠ s.params.inboundMarker ∨ chkOk s.params.checksumRule (s.completedFrame b) = false) :
    valid s.params (s.completedFrame b) = false := by
  have hmarker : (s.completedFrame b).b0 = s.rxBuf[0] := rfl
  rw [Bool.eq_false_iff, Ne, valid_iff, hmarker]
  rintro ⟨hb0, hchk⟩
  obtain h | h := h
  · exact h hb0
  · simp [hchk] at h

/-- The byte that completes an invalid frame only starts the next frame. -/
theorem receive_invalid (b : Byte) (s : State) (hcnt : s.rxCnt = 7)
    (h : valid s.params (s.completedFrame b) = false) : s.receive b = { s with rxCnt := 0 } := by
  rw [receive_completing_ite b s hcnt, if_neg (by simp [h])]

end Sys2Proof.Machine

namespace Sys2Proof

open Sys2Proof.Machine

/-- Settles O20: the acceptance of the word is the one RESP. -/
theorem indexAboveThreeRejected : Obligations.IndexAboveThreeRejected := by
  intro s w es hev hidle hop hidx
  rw [step_cmd_idle s w es hidle hev, acceptWord_illegalIndex hop hidx]
  rfl

/-- Settles O22: the reserved code comes before the index, and the index before the transport, since a word that passes
both checks has its frame on offer and no RESP yet; of an inbound frame, either failed check makes it invalid. -/
theorem errorPriority : Obligations.ErrorPriority := by
  refine ⟨fun s w es hev hidle => ?_, fun s b hcnt hbad => ?_⟩
  · have hstep := step_cmd_idle s w es hidle hev
    by_cases hreserved : w.toNat % 4 = 3
    · rw [acceptWord_reserved hreserved] at hstep
      refine ⟨_, hstep, rfl, ?_⟩
      rw [if_pos hreserved]
      exact ⟨rfl, hidle⟩
    · by_cases hillegal : w.toNat % 4 ≠ 0 ∧ 3 < w.toNat / 256
      · rw [acceptWord_illegalIndex (by omega) hillegal.2] at hstep
        refine ⟨_, hstep, rfl, ?_⟩
        rw [if_neg hreserved, if_pos hillegal]
        exact ⟨rfl, hidle⟩
      · obtain ⟨op, idx, f, haccept⟩ := acceptWord_offers hreserved (by omega) { s with events := es }
        rw [haccept] at hstep
        refine ⟨_, hstep, rfl, ?_⟩
        rw [if_neg hreserved, if_neg hillegal]
        exact ⟨rfl, rfl, fun k => ⟨_, step_answer_fail_busy _ k [] (by simp) rfl, rfl, rfl⟩⟩
  · rw [exec_rxByte, receive_invalid b s hcnt (valid_completedFrame_eq_false b s hbad)]

/-- Settles O12: with no event the fetch is quiet, in the state as it is. -/
theorem quietWithoutEvents : Obligations.QuietWithoutEvents :=
  fun s h => step_quiet s s (by simp only [fetch, h])

/-- Settles O29: the pending write takes the answer, whatever its phase. -/
theorem failedWriteReported : Obligations.FailedWriteReported :=
  fun s k es hev hbusy => step_answer_fail_busy s k es hbusy hev

end Sys2Proof
end

section
/-! What comes after a reset event: the script goes on, and the first answer, byte or command meets an idle unit and a
decoder on a frame boundary (70 R140, R141). -/

namespace Sys2Proof.Machine

/-- The wire after a reset: what the draw lets through of an abandoned frame (70 R141). -/
theorem takeReset_txLog (k : Fin 9) (s : State) :
    (s.takeReset k).txLog = s.txLog ++ (if s.cuPhase = .idle then [] else s.cuFrame.bytes.take k.val) := by
  obtain ⟨hp, h⟩ | ⟨hp, h⟩ := takeReset_cases k s <;> simp [h, hp]

@[simp] theorem takeReset_events (k : Fin 9) (s : State) : (s.takeReset k).events = s.events := by
  obtain ⟨-, h⟩ | ⟨-, h⟩ := takeReset_cases k s <;> simp [h]

/-- On a frame boundary a byte is byte 0 of a frame (41 R101). -/
theorem receive_boundary (b : Byte) (s : State) (h : s.rxCnt = 0) :
    s.receive b = { s with rxCnt := 1, rxBuf := s.rxBuf.set 0 b } := by
  rw [receive_accumulating b s (by simp [h]), accumulate_eq_set b s (by simp [h])]
  simp [h]

/-- The acceptance of a command takes no word off the port and puts none there. -/
@[simp] theorem acceptWord_cmdPort (w : CmdWord) (s : State) : (acceptWord w s).cmdPort = s.cmdPort := by
  by_cases hreserved : w.toNat % 4 = 3
  · rw [acceptWord_reserved hreserved, respond_cmdPort]
  · by_cases hillegal : w.toNat % 4 ≠ 0 ∧ 3 < w.toNat / 256
    · rw [acceptWord_illegalIndex (by omega) hillegal.2, respond_cmdPort]
    · obtain ⟨op, idx, f, haccept⟩ := acceptWord_offers hreserved (by omega) s
      rw [haccept]

end Sys2Proof.Machine

namespace Sys2Proof

open Sys2Proof.Machine

/-- Settles O10: the reset leaves `takeReset`'s values and the rest of the script, and each of the three events that can
come next is a step from an idle unit on a frame boundary. -/
theorem resetEvent : Obligations.ResetEvent := by
  intro s k es h
  refine ⟨_, step_reset_event s k es h, ?_⟩
  have htx := takeReset_txLog k { s with events := es }
  have hevents : (({ s with events := es } : State).takeReset k).events = es := takeReset_events k _
  have hstatus := takeReset_statusLog k { s with events := es }
  have hresp := takeReset_respLog k { s with events := es }
  have hparams := takeReset_params k { s with events := es }
  have hcnt := takeReset_rxCnt k { s with events := es }
  have hidle := takeReset_cuPhase k { s with events := es }
  generalize ({ s with events := es } : State).takeReset k = t at *
  subst hevents
  refine ⟨hcnt, hidle, htx, hstatus, hresp, hparams, rfl, fun _ a => ?_, fun b => ?_, fun w => ⟨?_, ?_⟩⟩
  · exact step_answer_idle _ a t.events hidle rfl
  · exact (step_rx _ b [] t.events rfl).trans (congrArg _ (receive_boundary b t hcnt))
  · exact step_run _ t (decodeCmd w) rfl
  · exact ⟨_, exec_decodeCmd_idle w t hidle, acceptWord_cmdPort w t⟩

end Sys2Proof
end

section
/-! A write that is never answered: the command unit does not move, and the commands presented meanwhile collect on the
port (70 R149). -/

namespace Sys2Proof.Machine

/-- What is left of a notification presents no command. -/
@[simp] theorem presentedWords_pushRx (rest : List Byte) (es : List Event) :
    presentedWords (pushRx rest es) = presentedWords es := by
  cases rest <;> rfl

/-- What is left of a notification neither answers a write nor resets. -/
theorem pushRx_leavesWritePending (rest : List Byte) {es : List Event} (hes : ∀ e ∈ es, leavesWritePending e = true) :
    ∀ e ∈ pushRx rest es, leavesWritePending e = true := by
  cases rest with
  | nil => exact hes
  | cons b rest => exact List.forall_mem_cons.mpr ⟨rfl, hes⟩

/-- From `s` to `t` the write stays pending: the command unit has not moved, the words held on the port and those still
to be presented are together the same words in the same order, and nothing left in the script ends the write. -/
structure WriteKept (s t : State) : Prop where
  unit : t.unitView = s.unitView
  words : t.cmdPort ++ presentedWords t.events = s.cmdPort ++ presentedWords s.events
  pending : ∀ e ∈ t.events, leavesWritePending e = true

theorem WriteKept.refl {s : State} (hes : ∀ e ∈ s.events, leavesWritePending e = true) : WriteKept s s :=
  ⟨rfl, rfl, hes⟩

theorem WriteKept.trans {s t u : State} (h : WriteKept s t) (h' : WriteKept t u) : WriteKept s u :=
  ⟨h'.unit.trans h.unit, h'.words.trans h.words, h'.pending⟩

/-- A step that neither answers the pending write nor resets keeps it. -/
theorem step_writeKept (s : State) (hp : s.cuPhase ≠ .idle) (hes : ∀ e ∈ s.events, leavesWritePending e = true) :
    ∃ t, step s = .next t ∧ WriteKept s t := by
  cases hev : s.events with
  | nil => exact ⟨s, quietWithoutEvents s hev, .refl hes⟩
  | cons e es =>
    obtain ⟨he, hes⟩ := List.forall_mem_cons.mp (hev ▸ hes)
    cases e with
    | cmd w => exact ⟨_, step_cmd_busy s w es hp hev, rfl, by simp [hev, presentedWords], hes⟩
    | accept n => exact ⟨_, step_accept_busy s n es hp hev, rfl, by simp [hev, presentedWords], hes⟩
    | rx bytes =>
      cases bytes with
      | nil => exact ⟨_, step_rx_empty s es hev, rfl, by simp [hev, presentedWords], hes⟩
      | cons b rest =>
        refine ⟨_, step_rx s b rest es hev, ?_⟩
        rw [receive_frame]
        exact ⟨rfl, by simp [hev, presentedWords], pushRx_leavesWritePending rest hes⟩
    | txAnswer a => simp [leavesWritePending] at he
    | reset k => simp [leavesWritePending] at he

/-- So does any number of steps: each leaves the write pending and the rest of the script without its end. -/
theorem stepN_writeKept (n : Nat) (s : State) (hp : s.cuPhase ≠ .idle)
    (hes : ∀ e ∈ s.events, leavesWritePending e = true) : ∃ t, stepN n s = .next t ∧ WriteKept s t := by
  induction n generalizing s with
  | zero => exact ⟨s, stepN_zero s, .refl hes⟩
  | succ n ih =>
    obtain ⟨t, hstep, hst⟩ := step_writeKept s hp hes
    obtain ⟨u, hrun, htu⟩ := ih t (by rwa [cuPhase_of_unitView hst.unit]) hst.pending
    exact ⟨u, (stepN_succ n s t hstep).trans hrun, hst.trans htu⟩

end Sys2Proof.Machine

namespace Sys2Proof

open Sys2Proof.Machine

/-- Settles O34: any number of steps keeps the unanswered write, and a reset step ends it. -/
theorem unansweredWriteHolds : Obligations.UnansweredWriteHolds := by
  refine ⟨fun n s hp hes => ?_, fun s k es h => ⟨_, step_reset_event s k es h, takeReset_cuPhase k _⟩⟩
  obtain ⟨t, hrun, hunit, hwords, -⟩ := stepN_writeKept n s hp hes
  obtain ⟨hphase, hop, hidx, hframe, htx, hresp⟩ := UnitView.mk.inj hunit
  exact ⟨t, hrun, hphase, hop, hidx, hframe, htx, hresp, hwords⟩

end Sys2Proof
end

section
/-! Decoding and encoding are inverse on each of the three ports, and only an RX_BYTE forgets something: the bytes held
before it (30 R64 to R66, R70, R73, R75). -/

namespace Sys2Proof

open Sys2Proof.Machine

/-! ### The packet of each port -/

theorem decode_rx_eq_ok_iff (p : Params) (window : List Byte) (i : Instr) :
    decode p (.rx window) = .ok i ↔ decodeRx p window = some i := by
  cases h : decodeRx p window <;> simp [decode, h]

theorem decode_tx_eq_ok_iff (p : Params) (f : Frame) (i : Instr) :
    decode p (.tx f) = .ok i ↔ decodeTx f = some i := by
  cases h : decodeTx f <;> simp [decode, h]

/-! ### Command words (30 R70) -/

theorem decodeCmd_query (idx : Byte) (rsv : BitVec 5) (d : Bool) :
    decodeCmd (cmdWord idx rsv d 0) = .query idx rsv d := by
  simp [decodeCmd, cmdOp_cmdWord, cmdIdx_cmdWord, cmdRsv_cmdWord, cmdD_cmdWord]

theorem decodeCmd_rsvd (idx : Byte) (rsv : BitVec 5) (d : Bool) :
    decodeCmd (cmdWord idx rsv d 3) = .rsvd idx rsv d := by
  simp [decodeCmd, cmdOp_cmdWord, cmdIdx_cmdWord, cmdRsv_cmdWord, cmdD_cmdWord]

/-- A command word decodes to an instruction that is well formed and is encoded as that word. -/
theorem decodeCmd_wf_encode (p : Params) (w : CmdWord) :
    (decodeCmd w).wf p = true ∧ encode (decodeCmd w) = .cmd w := by
  have hw := cmdWord_fields w
  unfold decodeCmd
  split
  case isTrue h0 => exact ⟨rfl, by rw [encode, ← h0, hw]⟩
  split
  case isTrue h1 => exact ⟨rfl, by rw [encode, desired_toBit_ofBit, ← h1, hw]⟩
  split
  case isTrue h2 => exact ⟨rfl, by rw [encode, ← h2, hw]⟩
  case isFalse h0 h1 h2 => exact ⟨rfl, by rw [encode, ← cmdOp_eq_three w h0 h1 h2, hw]⟩

/-! ### Outbound frames (30 R73) -/

/-- A frame is an outbound row iff that row is encoded as the frame. -/
theorem decodeTx_eq_some_iff (f : Frame) (i : Instr) : decodeTx f = some i ↔ encode i = .tx f := by
  constructor
  · intro h
    unfold decodeTx at h
    repeat' split at h
    all_goals cases h
    all_goals exact congrArg Packet.tx (Eq.symm ‹_›)
  · intro h
    cases i
    all_goals cases h
    all_goals decide

theorem wf_of_encode_tx (p : Params) {i : Instr} {f : Frame} (h : encode i = .tx f) : i.wf p = true := by
  cases i with
  | frameStatus => cases h
  | _ => rfl

/-! ### Windows of RX (30 R66, R75) -/

theorem decodeRx_bytes_marker (p : Params) (f : Frame) (h : f.b0 = p.inboundMarker) :
    decodeRx p f.bytes = some (.frameStatus f) := if_pos h

theorem decodeRx_bytes_other (p : Params) (f : Frame) (h : f.b0 ≠ p.inboundMarker) :
    decodeRx p f.bytes = some (.rxByte f.b7) := if_neg h

theorem decodeRx_long (p : Params) (window : List Byte) (h : 8 < window.length) : decodeRx p window = none := by
  unfold decodeRx
  split
  · simp at h
  · exact if_neg (by omega)

/-- A list of eight bytes is a frame. -/
theorem exists_frame_of_length {bytes : List Byte} (h : bytes.length = 8) : ∃ f : Frame, bytes = f.bytes := by
  match bytes, h with
  | [b0, b1, b2, b3, b4, b5, b6, b7], _ => exact ⟨⟨b0, b1, b2, b3, b4, b5, b6, b7⟩, rfl⟩

/-- What a window can be: a whole frame that begins with the marker, or the RX_BYTE of its last byte after at most seven
held bytes that do not make it such a frame. -/
theorem decodeRx_cases {p : Params} {window : List Byte} {i : Instr} (h : decodeRx p window = some i) :
    (∃ f : Frame, i = .frameStatus f ∧ window = f.bytes ∧ f.b0 = p.inboundMarker) ∨
    ∃ (held : List Byte) (b : Byte), i = .rxByte b ∧ window = held ++ [b] ∧ held.length ≤ 7 ∧
      (held.length = 7 → held.head? ≠ some p.inboundMarker) := by
  obtain hlen | hlen | hlen := Nat.lt_trichotomy window.length 8
  · rw [decodeRx_short p window hlen, Option.map_eq_some_iff] at h
    obtain ⟨b, hb, rfl⟩ := h
    obtain ⟨held, rfl⟩ := List.getLast?_eq_some_iff.mp hb
    rw [List.length_append, List.length_singleton] at hlen
    exact .inr ⟨held, b, rfl, rfl, by omega, by omega⟩
  · obtain ⟨f, rfl⟩ := exists_frame_of_length hlen
    by_cases hmarker : f.b0 = p.inboundMarker
    · rw [decodeRx_bytes_marker p f hmarker] at h
      exact .inl ⟨f, (Option.some.inj h).symm, rfl, hmarker⟩
    · rw [decodeRx_bytes_other p f hmarker] at h
      exact .inr ⟨[f.b0, f.b1, f.b2, f.b3, f.b4, f.b5, f.b6], f.b7, (Option.some.inj h).symm, rfl, Nat.le_refl 7,
        fun _ hhead => hmarker (Option.some.inj hhead)⟩
  · rw [decodeRx_long p window hlen] at h
    cases h

/-! ### The obligations -/

/-- Settles O1: each command word gives its fields back, each outbound row its frame, a byte alone is its RX_BYTE, and
a frame that begins with the marker is its FRAME_STATUS. -/
theorem decodeEncodeRoundTrip : Obligations.DecodeEncodeRoundTrip := by
  intro p i hwf
  cases i with
  | query idx rsv d => exact congrArg Except.ok (decodeCmd_query idx rsv d)
  | set idx rsv d => exact congrArg Except.ok ((decodeCmd_set idx rsv d.toBit).trans (by rw [desired_ofBit_toBit]))
  | pulse idx rsv d => exact congrArg Except.ok (decodeCmd_pulse idx rsv d)
  | rsvd idx rsv d => exact congrArg Except.ok (decodeCmd_rsvd idx rsv d)
  | rxByte b => rfl
  | frameQuery | frameSetOpen0 | frameSetOpen1 | frameSetOpen2 | frameSetOpen3 | frameSetClosed =>
    exact (decode_tx_eq_ok_iff p _ _).mpr ((decodeTx_eq_some_iff _ _).mpr rfl)
  | frameStatus f => exact (decode_rx_eq_ok_iff p _ _).mpr (decodeRx_bytes_marker p f (beq_iff_eq.mp hwf))

/-- Settles O2: a command word is its fields, an outbound row is its frame, and a window is a whole frame or the
RX_BYTE of its last byte. -/
theorem encodeDecodeRoundTrip : Obligations.EncodeDecodeRoundTrip := by
  intro p pk i h
  cases pk with
  | cmd w =>
    obtain rfl := Except.ok.inj h
    exact decodeCmd_wf_encode p w
  | rx window =>
    obtain ⟨f, rfl, rfl, hmarker⟩ | ⟨held, b, rfl, hwindow⟩ := decodeRx_cases ((decode_rx_eq_ok_iff p window i).mp h)
    · exact ⟨beq_iff_eq.mpr hmarker, .inl rfl⟩
    · exact ⟨rfl, .inr ⟨held, b, rfl, hwindow⟩⟩
  | tx f =>
    have henc := (decodeTx_eq_some_iff f i).mp ((decode_tx_eq_ok_iff p f i).mp h)
    exact ⟨wf_of_encode_tx p henc, henc⟩

end Sys2Proof
end

section
/-! One step as a function of the event it takes (00 R5), and that every state has one. -/

namespace Sys2Proof.Machine

/-- A word presented on the CMD port: accepted in IDLE, held otherwise (40 R80). -/
def State.presentWord (w : CmdWord) (s : State) : State :=
  if s.cuPhase = .idle then acceptWord w s else s.hold w

/-- The turn of the n-th held command: it is taken off the port and accepted, if the unit is idle and there is one
(40 R80). -/
def State.acceptHeld (n : Nat) (s : State) : State :=
  match s.cmdPort[n]? with
  | some w => if s.cuPhase = .idle then acceptWord w { s with cmdPort := s.cmdPort.eraseIdx n } else s
  | none => s

/-- What the block does with an event that has left the script. -/
def State.takeEvent : Event → State → State
  | .cmd w, s => s.presentWord w
  | .accept n, s => s.acceptHeld n
  | .rx [], s => s
  | .rx (b :: rest), s => ({ s with events := pushRx rest s.events } : State).receive b
  | .txAnswer a, s => s.takeAnswer a
  | .reset k, s => s.takeReset k

theorem presentWord_idle (w : CmdWord) (s : State) (h : s.cuPhase = .idle) : s.presentWord w = acceptWord w s :=
  if_pos h

theorem presentWord_busy (w : CmdWord) (s : State) (h : s.cuPhase ≠ .idle) : s.presentWord w = s.hold w := if_neg h

theorem acceptHeld_idle {n : Nat} {w : CmdWord} {s : State} (h : s.cuPhase = .idle) (hw : s.cmdPort[n]? = some w) :
    s.acceptHeld n = acceptWord w { s with cmdPort := s.cmdPort.eraseIdx n } := by
  simp only [State.acceptHeld, hw, if_pos h]

theorem acceptHeld_busy (n : Nat) (s : State) (h : s.cuPhase ≠ .idle) : s.acceptHeld n = s := by
  unfold State.acceptHeld
  split
  · exact if_neg h
  · rfl

theorem acceptHeld_none {n : Nat} {s : State} (h : s.cmdPort[n]? = none) : s.acceptHeld n = s := by
  simp only [State.acceptHeld, h]

/-- A command word presented in any phase answers what `presentWord` says. -/
theorem exec_decodeCmd (w : CmdWord) (s : State) : exec (decodeCmd w) s = .next (s.presentWord w) := by
  by_cases hp : s.cuPhase = .idle
  · rw [exec_decodeCmd_idle w s hp, presentWord_idle w s hp]
  · rw [exec_decodeCmd_busy w s hp, presentWord_busy w s hp]

/-- A presented word is run as the instruction it decodes to. -/
theorem step_cmd_exec (s : State) (w : CmdWord) (es : List Event) (h : s.events = .cmd w :: es) :
    step s = exec (decodeCmd w) { s with events := es } :=
  step_run s _ _ (by simp only [fetch, h])

/-- A held word is run as the instruction it decodes to when its turn comes in IDLE. -/
theorem step_accept_exec (s : State) (n : Nat) (w : CmdWord) (es : List Event) (h : s.events = .accept n :: es)
    (hp : s.cuPhase = .idle) (hw : s.cmdPort[n]? = some w) :
    step s = exec (decodeCmd w) { s with events := es, cmdPort := s.cmdPort.eraseIdx n } :=
  step_run s _ _ (by simp only [fetch, h, fetchHeld, if_pos hp, hw])

/-- The turn of a place on the port where no word is held does nothing. -/
theorem step_accept_none (s : State) (n : Nat) (es : List Event) (h : s.events = .accept n :: es)
    (hw : s.cmdPort[n]? = none) : step s = .next { s with events := es } := by
  by_cases hp : s.cuPhase = .idle
  · exact step_quiet s _ (by simp only [fetch, h, fetchHeld, if_pos hp, hw])
  · exact step_accept_busy s n es hp h

/-- A step takes the first event off the script and does with it what `takeEvent` says. -/
theorem step_event (s : State) (e : Event) (es : List Event) (h : s.events = e :: es) :
    step s = .next (({ s with events := es } : State).takeEvent e) := by
  cases e with
  | cmd w => exact (step_cmd_exec s w es h).trans (exec_decodeCmd w _)
  | accept n =>
    cases hw : s.cmdPort[n]? with
    | none =>
      exact (step_accept_none s n es h hw).trans (congrArg _ (acceptHeld_none (s := { s with events := es }) hw).symm)
    | some w =>
      by_cases hp : s.cuPhase = .idle
      · rw [step_accept_exec s n w es h hp hw,
          exec_decodeCmd_idle w { s with events := es, cmdPort := s.cmdPort.eraseIdx n } hp]
        exact congrArg _ (acceptHeld_idle (s := { s with events := es }) hp hw).symm
      · exact (step_accept_busy s n es hp h).trans (congrArg _ (acceptHeld_busy n { s with events := es } hp).symm)
  | rx bytes =>
    cases bytes with
    | nil => exact step_rx_empty s es h
    | cons b rest => exact step_rx s b rest es h
  | txAnswer a => exact step_answer_event s a es h
  | reset k => exact step_reset_event s k es h

end Sys2Proof.Machine

namespace Sys2Proof

open Sys2Proof.Machine

/-- Settles O14: with no event a step answers the state itself, with one what the event does. -/
theorem stepAlwaysAnswers : Obligations.StepAlwaysAnswers := by
  intro s
  cases hev : s.events with
  | nil => exact ⟨s, quietWithoutEvents s hev⟩
  | cons e es => exact ⟨_, step_event s e es hev⟩

/-- Settles O13: each clause is the branch of `fetch` for its event. -/
theorem stepRunsDecodedInstruction : Obligations.StepRunsDecodedInstruction := by
  refine ⟨step_cmd_exec, fun s n w es h hp hw => step_accept_exec s n w es h hp hw, fun s b rest i es h hi => ?_,
    fun s i es h hp hi => ?_, fun s w => ?_⟩
  · have hwindow : decodeRx s.params (({ s with events := es } : State).window b) = some i := hi
    rw [← pushRx_eq_ite]
    exact step_run s _ i (by simp only [fetch, h, fetchRx, hwindow])
  · exact step_run s _ i (by simp only [fetch, h, fetchAnswer, if_neg hp, hi])
  · have hplaced : s.withFetchWord 16 w = { s with events := .cmd (BitVec.ofNat 16 w) :: s.events } := by
      simp [State.withFetchWord, placeTableWord, tablePacket, placePacket]
    rw [hplaced]
    exact step_cmd_exec _ (BitVec.ofNat 16 w) s.events rfl

end Sys2Proof
end

section
/-! What the command unit keeps true of its offer and of the wire: the frame on offer is an outbound frame, and only
beginnings of outbound frames reach the wire (20 R47, R49; 40 R82 to R88). -/

namespace Sys2Proof.Machine

/-! ### The wire (20 R47, R49) -/

theorem framedWire_nil : FramedWire [] := ⟨[], by simp, rfl⟩

/-- A wire stays framed when the beginning of an outbound frame is put on it. -/
theorem framedWire_append_take {wire : List Byte} (hwire : FramedWire wire) {f : Frame} (hf : f ∈ outboundFrames)
    (n : Nat) : FramedWire (wire ++ f.bytes.take n) := by
  obtain ⟨parts, hparts, rfl⟩ := hwire
  refine ⟨parts ++ [(f, n)], ?_, by simp⟩
  intro q hq
  obtain hq | hq := List.mem_append.mp hq
  · exact hparts q hq
  · rw [List.mem_singleton.mp hq]
    exact hf

theorem framedWire_append_bytes {wire : List Byte} (hwire : FramedWire wire) {f : Frame} (hf : f ∈ outboundFrames) :
    FramedWire (wire ++ f.bytes) :=
  framedWire_append_take hwire hf 8

theorem queryFrame_mem_outboundFrames : queryFrame ∈ outboundFrames := by decide

/-! ### The offer (40 R82 to R86) -/

/-- The offer and the wire are the command unit's own part of the state. -/
theorem commandSide_of_unitView {s t : State} (h : t.unitView = s.unitView) (hs : s.CommandSide) : t.CommandSide := by
  obtain ⟨hphase, hop, hidx, hframe, htx, -⟩ := UnitView.mk.inj h
  obtain ⟨hoffer, hwire⟩ := hs
  unfold State.CommandSide State.OfferMatchesCommand
  rw [hphase, hop, hidx, hframe, htx]
  exact ⟨hoffer, hwire⟩

/-- With no command in flight, only the wire counts. -/
theorem commandSide_of_idle {s : State} (hp : s.cuPhase = .idle) (hwire : FramedWire s.txLog) : s.CommandSide := by
  refine ⟨?_, hwire⟩
  unfold State.OfferMatchesCommand
  simp [hp]

/-- While a write is pending, the frame on offer is an outbound frame (40 R88). -/
theorem cuFrame_mem_outboundFrames {s : State} (hs : s.OfferMatchesCommand) (hp : s.cuPhase ≠ .idle) :
    s.cuFrame ∈ outboundFrames := by
  unfold State.OfferMatchesCommand at hs
  split at hs
  case h_1 hidle => exact absurd hidle hp
  case h_2 => rw [hs]; exact queryFrame_mem_outboundFrames
  case h_3 => obtain hs | hs := hs <;> rw [hs] <;> exact setFrame_mem_outboundFrames _ _
  case h_4 | h_5 => rw [hs]; exact setFrame_mem_outboundFrames _ _
  case h_6 => exact hs.elim

/-! ### Each effect of a step keeps the command side -/

theorem commandSide_acceptSet (idx : Byte) (d : Desired) {s : State} (hs : s.CommandSide) :
    (s.acceptSet idx d).CommandSide := by
  by_cases hidx : idx.toNat ≤ 3
  · rw [acceptSet_legal idx d s hidx]
    refine ⟨?_, hs.2⟩
    cases d with
    | openReq => exact .inl rfl
    | closedReq => exact .inr rfl
  · rw [acceptSet_illegal idx d s (by omega)]
    exact hs

theorem commandSide_acceptPulse (idx : Byte) {s : State} (hs : s.CommandSide) : (s.acceptPulse idx).CommandSide := by
  by_cases hidx : idx.toNat ≤ 3
  · rw [acceptPulse_legal idx s hidx]
    exact ⟨rfl, hs.2⟩
  · rw [acceptPulse_illegal idx s (by omega)]
    exact hs

theorem commandSide_acceptWord (w : CmdWord) {s : State} (hs : s.CommandSide) : (acceptWord w s).CommandSide := by
  obtain h | h | h | h : w.toNat % 4 = 0 ∨ w.toNat % 4 = 1 ∨ w.toNat % 4 = 2 ∨ w.toNat % 4 = 3 := by omega
  · rw [acceptWord_query h]
    exact ⟨rfl, hs.2⟩
  · rw [acceptWord_set h]
    exact commandSide_acceptSet _ _ hs
  · rw [acceptWord_pulse h]
    exact commandSide_acceptPulse _ hs
  · rw [acceptWord_reserved h]
    exact hs

/-- An OK answer puts the offered frame on the wire; after a PULSE's first write its Closed frame is on offer. -/
theorem commandSide_answerOk {s : State} (hs : s.CommandSide) (hp : s.cuPhase ≠ .idle) : s.answerOk.CommandSide := by
  have hwire := framedWire_append_bytes hs.2 (cuFrame_mem_outboundFrames hs.1 hp)
  by_cases hfirst : s.cuPhase = .wait1 ∧ s.cuOp = .pulse
  · rw [answerOk_first_of_pulse s hfirst.1 hfirst.2]
    refine ⟨?_, hwire⟩
    simp [State.OfferMatchesCommand, hfirst.2]
  · rw [answerOk_last s hfirst]
    exact commandSide_of_idle rfl hwire

theorem commandSide_answerFail (k : Fin 9) {s : State} (hs : s.CommandSide) (hp : s.cuPhase ≠ .idle) :
    (s.answerFail k).CommandSide :=
  commandSide_of_idle rfl (framedWire_append_take hs.2 (cuFrame_mem_outboundFrames hs.1 hp) k)

/-- A reset cuts off the frame of an abandoned write (70 R141). -/
theorem commandSide_takeReset (k : Fin 9) {s : State} (hs : s.CommandSide) : (s.takeReset k).CommandSide := by
  refine commandSide_of_idle rfl ?_
  obtain ⟨-, h⟩ | ⟨hp, h⟩ := takeReset_cases k s
  · rw [h]
    exact hs.2
  · rw [h]
    exact framedWire_append_take hs.2 (cuFrame_mem_outboundFrames hs.1 hp) k

theorem stepEffect_commandSide {s t : State} (h : StepEffect s t) (hs : s.CommandSide) : t.CommandSide := by
  cases h with
  | nothing => exact hs
  | held w => exact commandSide_of_unitView (hold_unitView w s) hs
  | accepted w => exact commandSide_acceptWord w hs
  | answeredOk hp => exact commandSide_answerOk hs hp
  | answeredFail k hp => exact commandSide_answerFail k hs hp
  | received b => exact commandSide_of_unitView (receiveAll_unitView [b] s) hs
  | reset k => exact commandSide_takeReset k hs

end Sys2Proof.Machine

namespace Sys2Proof

open Sys2Proof.Machine

/-- Settles O32: every effect of a step keeps the command side, and so does taking its event off the script. -/
theorem commandSideKept : Obligations.CommandSideKept := by
  intro s t hs h
  obtain ⟨_, _, heffect⟩ := step_effect s t h
  exact stepEffect_commandSide heffect (commandSide_of_unitView rfl hs)

/-- Settles O33: right after reset no command is in flight and the wire is empty. -/
theorem commandSideAtReset : Obligations.CommandSideAtReset :=
  commandSide_of_idle rfl framedWire_nil

end Sys2Proof
end

section
/-! The CMD port, the outbound rows and the answers as whole next states, and how far one step extends the three logs
(10 R26; 40 R80 to R91). -/

namespace Sys2Proof.Machine

/-! ### The acceptance of a command word (40 R82 to R85) -/

/-- An acceptance gives one RESP and nothing else, or offers a frame and puts nothing out. -/
theorem acceptWord_cases (w : CmdWord) (s : State) :
    (∃ c, acceptWord w s = s.respond c) ∨
    ∃ op idx f, acceptWord w s = { s with cuPhase := .wait1, cuOp := op, cuIdx := idx, cuFrame := f } := by
  by_cases hreserved : w.toNat % 4 = 3
  · exact .inl ⟨_, acceptWord_reserved hreserved s⟩
  · by_cases hillegal : w.toNat % 4 ≠ 0 ∧ 3 < w.toNat / 256
    · exact .inl ⟨_, acceptWord_illegalIndex (by omega) hillegal.2 s⟩
    · exact .inr (acceptWord_offers hreserved (by omega) s)

@[simp] theorem acceptWord_txLog (w : CmdWord) (s : State) : (acceptWord w s).txLog = s.txLog := by
  obtain ⟨c, h⟩ | ⟨op, idx, f, h⟩ := acceptWord_cases w s
  · rw [h, respond_txLog]
  · rw [h]

theorem ofCommandUnit_decodeCmd (w : CmdWord) : ofCommandUnit (decodeCmd w) = true := by
  unfold decodeCmd
  repeat' split
  all_goals rfl

theorem unitFrame_presentWord (w : CmdWord) (s : State) : UnitFrame s (s.presentWord w) :=
  unitFrame_exec (ofCommandUnit_decodeCmd w) (exec_decodeCmd w s)

@[simp] theorem presentWord_txLog (w : CmdWord) (s : State) : (s.presentWord w).txLog = s.txLog := by
  by_cases hp : s.cuPhase = .idle
  · rw [presentWord_idle w s hp, acceptWord_txLog]
  · rw [presentWord_busy w s hp, hold_txLog]

/-! ### The OK answer (40 R86) -/

/-- The OK answer as a whole next state, by whether the first frame of a PULSE is pending. -/
theorem next_answerOk (s : State) :
    (.next s.answerOk : Host.Outcome State Fault Refusal) =
      if s.cuPhase = .wait1 ∧ s.cuOp = .pulse then
        .next { s with
          txLog := s.txLog ++ s.cuFrame.bytes, cuFrame := setFrame s.cuIdx .closedReq, cuPhase := .wait2 }
      else .next { s with txLog := s.txLog ++ s.cuFrame.bytes, respLog := s.respLog ++ [.ok], cuPhase := .idle } := by
  by_cases h : s.cuPhase = .wait1 ∧ s.cuOp = .pulse
  · rw [if_pos h, answerOk_first_of_pulse s h.1 h.2]
    rfl
  · rw [if_neg h, answerOk_last s h]
    rfl

/-! ### The port under reset (70 R149) -/

@[simp] theorem takeReset_cmdPort (k : Fin 9) (s : State) : (s.takeReset k).cmdPort = s.cmdPort := by
  obtain ⟨-, h⟩ | ⟨-, h⟩ := takeReset_cases k s
  · rw [h, resetElements_cmdPort]
  · rw [h, resetElements_cmdPort, appendTx_cmdPort]

/-! ### A RESP ends its command (40 R80, 60 R127) -/

theorem stepEffect_idle_of_respLog_ne {s t : State} (h : StepEffect s t) (hresp : t.respLog ≠ s.respLog) :
    t.cuPhase = .idle := by
  cases h with
  | nothing => exact absurd rfl hresp
  | held w => exact absurd rfl hresp
  | accepted w hp =>
    obtain ⟨c, h⟩ | ⟨op, idx, f, h⟩ := acceptWord_cases w s
    · rw [h]
      exact hp
    · exact absurd (by rw [h]) hresp
  | answeredOk hp =>
    by_cases hfirst : s.cuPhase = .wait1 ∧ s.cuOp = .pulse
    · exact absurd (by rw [answerOk_first_of_pulse s hfirst.1 hfirst.2]; rfl) hresp
    · rw [answerOk_last s hfirst]
      rfl
  | answeredFail k => rfl
  | received b => exact absurd (by rw [receive_frame]) hresp
  | reset k => rfl

/-! ### How far a step extends the logs (10 R26, R27) -/

/-- `l'` is `l` with at most `n` elements after it. -/
structure GrowsBy {α : Type} (n : Nat) (l l' : List α) : Prop where
  isPrefix : l <+: l'
  length_le : l'.length ≤ l.length + n

theorem growsBy_refl {α : Type} (n : Nat) (l : List α) : GrowsBy n l l := ⟨List.prefix_rfl, Nat.le_add_right _ n⟩

theorem growsBy_append {α : Type} {n : Nat} (l : List α) {xs : List α} (h : xs.length ≤ n) : GrowsBy n l (l ++ xs) :=
  ⟨List.prefix_append l xs, by rw [List.length_append]; omega⟩

/-- From `s` to `t` at most one frame goes out, one STATUS and one RESP are given, and nothing is taken back. -/
structure LogsGrow (s t : State) : Prop where
  tx : GrowsBy 8 s.txLog t.txLog
  status : GrowsBy 1 s.statusLog t.statusLog
  resp : GrowsBy 1 s.respLog t.respLog

theorem logsGrow_refl (s : State) : LogsGrow s s := ⟨growsBy_refl _ _, growsBy_refl _ _, growsBy_refl _ _⟩

theorem length_take_bytes_le (f : Frame) (k : Nat) : (f.bytes.take k).length ≤ 8 := List.length_take_le' k f.bytes

theorem logsGrow_acceptWord (w : CmdWord) (s : State) : LogsGrow s (acceptWord w s) := by
  obtain ⟨c, h⟩ | ⟨op, idx, f, h⟩ := acceptWord_cases w s
  · rw [h]
    exact { logsGrow_refl s with resp := growsBy_append s.respLog (Nat.le_refl 1) }
  · rw [h]
    exact { logsGrow_refl s with }

theorem logsGrow_answerOk (s : State) : LogsGrow s s.answerOk := by
  have htx : GrowsBy 8 s.txLog (s.txLog ++ s.cuFrame.bytes) := growsBy_append s.txLog (Nat.le_refl 8)
  by_cases hfirst : s.cuPhase = .wait1 ∧ s.cuOp = .pulse
  · rw [answerOk_first_of_pulse s hfirst.1 hfirst.2]
    exact { logsGrow_refl s with tx := htx }
  · rw [answerOk_last s hfirst]
    exact { logsGrow_refl s with tx := htx, resp := growsBy_append s.respLog (Nat.le_refl 1) }

theorem logsGrow_answerFail (k : Fin 9) (s : State) : LogsGrow s (s.answerFail k) :=
  { logsGrow_refl s with
    tx := growsBy_append s.txLog (length_take_bytes_le s.cuFrame k)
    resp := growsBy_append s.respLog (Nat.le_refl 1) }

theorem length_toList_le_one {α : Type} (o : Option α) : o.toList.length ≤ 1 := by cases o <;> simp

theorem logsGrow_receive (b : Byte) (s : State) : LogsGrow s (s.receive b) := by
  by_cases hcnt : s.rxCnt = 7
  · rw [receive_completing b s hcnt]
    exact { logsGrow_refl s with status := growsBy_append s.statusLog (length_toList_le_one _) }
  · rw [receive_accumulating b s hcnt]
    exact { logsGrow_refl s with }

theorem logsGrow_takeReset (k : Fin 9) (s : State) : LogsGrow s (s.takeReset k) := by
  obtain ⟨-, h⟩ | ⟨-, h⟩ := takeReset_cases k s
  · rw [h]
    exact { logsGrow_refl s with }
  · rw [h]
    exact { logsGrow_refl s with tx := growsBy_append s.txLog (length_take_bytes_le s.cuFrame k) }

theorem stepEffect_logsGrow {s t : State} (h : StepEffect s t) : LogsGrow s t := by
  cases h with
  | nothing => exact logsGrow_refl s
  | held w => exact { logsGrow_refl s with }
  | accepted w => exact logsGrow_acceptWord w s
  | answeredOk => exact logsGrow_answerOk s
  | answeredFail k => exact logsGrow_answerFail k s
  | received b => exact logsGrow_receive b s
  | reset k => exact logsGrow_takeReset k s

end Sys2Proof.Machine

namespace Sys2Proof

open Sys2Proof.Machine

/-- Settles O11: a reset leaves the port, and after it the unit is idle, so an answer is not taken. -/
theorem resetLeavesPort : Obligations.ResetLeavesPort := by
  intro s k es h
  refine ⟨_, step_reset_event s k es h, takeReset_cmdPort k _, fun a => ?_⟩
  have hevents : (({ s with events := es } : State).takeReset k).events = es := takeReset_events k _
  have hidle := takeReset_cuPhase k { s with events := es }
  generalize ({ s with events := es } : State).takeReset k = t at *
  subst hevents
  exact step_answer_idle _ a t.events hidle rfl

/-- Settles O16: every effect of a step extends the logs by at most one frame, one STATUS and one RESP. -/
theorem logsOnlyGrow : Obligations.LogsOnlyGrow := by
  intro s t h
  obtain ⟨_, _, heffect⟩ := step_effect s t h
  obtain ⟨htx, hstatus, hresp⟩ := stepEffect_logsGrow heffect
  exact ⟨htx.isPrefix, htx.length_le, hstatus.isPrefix, hstatus.length_le, hresp.isPrefix, hresp.length_le⟩

/-- Settles O24: in IDLE a presented word and a held word are accepted, otherwise the one is held and the other stays;
an effect that gives a RESP ends in IDLE. -/
theorem commandPortSerialises : Obligations.CommandPortSerialises := by
  refine ⟨fun s w es h => ⟨fun hp => ⟨step_cmd_exec s w es h, _, step_cmd_idle s w es hp h, acceptWord_cmdPort w _⟩,
      fun hp => step_cmd_busy s w es hp h⟩,
    fun s n w es h => ⟨step_accept_exec s n w es h, fun hp => step_accept_busy s n es hp h⟩, fun s t h hresp => ?_⟩
  obtain ⟨_, _, heffect⟩ := step_effect s t h
  exact stepEffect_idle_of_respLog_ne heffect hresp

/-- Settles O25: a host command is presented on the port, which keeps `UnitFrame` and the wire. -/
theorem hostCommandFrame : Obligations.HostCommandFrame := by
  rintro s t _ w rfl h
  rw [exec_decodeCmd] at h
  obtain rfl := Host.Outcome.next.inj h
  have hframe := unitFrame_presentWord w s
  refine ⟨hframe.rxCnt, hframe.rxBuf, presentWord_txLog w s, hframe.statusLog, hframe.params, hframe.events,
    hframe.draws, fun hp => ?_, fun hp => presentWord_busy w s hp⟩
  rw [presentWord_idle w s hp, acceptWord_cmdPort]

/-- Settles O26: each frame decodes to its row, and the row whose frame is on offer is the OK answer. -/
theorem outboundFramesGoOut : Obligations.OutboundFramesGoOut := by
  intro q hq
  have hrow : decodeTx q.2 = some q.1 := by
    revert q
    decide
  intro s hp hframe
  rw [exec_of_decodeTx q.2 q.1 s hrow, ← hframe, sendFrame_offered s hp, next_answerOk]

/-- Settles O27: an outbound row sends its frame, and a frame that is not on offer is not sent. -/
theorem frameNotOfferedUnchanged : Obligations.FrameNotOfferedUnchanged := by
  intro s i f hrow hoff
  rw [exec_of_decodeTx f i s hrow, sendFrame_not_offered f s hoff]

/-- Settles O28: the OK answer to a pending write is taken, whether or not the offered frame is a row. -/
theorem answerOkTaken : Obligations.AnswerOkTaken :=
  fun s es h hp => (step_answer_ok_busy s es hp h).trans (next_answerOk { s with events := es })

/-- Settles O30: in IDLE the fetch of an answer is quiet. -/
theorem answerNotTakenWhileIdle : Obligations.AnswerNotTakenWhileIdle :=
  fun s a es h hp => step_answer_idle s a es hp h

/-- Settles O37: the four codes as 60 R120 numbers them. -/
theorem responseCodeNumbers : Obligations.ResponseCodeNumbers := ⟨rfl, rfl, rfl, rfl⟩

end Sys2Proof
end

section
/-! What no rule reads: the elements of `SameLive` split by unit, and each operation reads only the live ones (10 R23,
R25, R35). -/

namespace Sys2Proof.Machine

/-- `s` and `t` agree in what the decoder reads and writes: the count, the held bytes, STATUS and the parameters. -/
structure DecoderAgrees (s t : State) : Prop where
  rxCnt : s.rxCnt = t.rxCnt
  held : ∀ j : Fin 7, j.val < s.rxCnt.toNat → s.rxBuf[j] = t.rxBuf[j]
  statusLog : s.statusLog = t.statusLog
  params : s.params = t.params

/-- `s` and `t` agree in what the command unit reads and writes: the phase, the command in flight, what it has put out,
and the port. -/
structure UnitAgrees (s t : State) : Prop where
  phase : s.cuPhase = t.cuPhase
  command : s.cuPhase ≠ .idle → s.cuOp = t.cuOp ∧ s.cuFrame = t.cuFrame ∧ (s.cuOp ≠ .query → s.cuIdx = t.cuIdx)
  txLog : s.txLog = t.txLog
  respLog : s.respLog = t.respLog
  cmdPort : s.cmdPort = t.cmdPort

theorem sameLive_iff (s t : State) :
    SameLive s t ↔ DecoderAgrees s t ∧ UnitAgrees s t ∧ s.events = t.events := by
  constructor
  · rintro ⟨hcnt, hheld, hphase, hcommand, htx, hstatus, hresp, hparams, hport, hevents⟩
    exact ⟨⟨hcnt, hheld, hstatus, hparams⟩, ⟨hphase, hcommand, htx, hresp, hport⟩, hevents⟩
  · rintro ⟨⟨hcnt, hheld, hstatus, hparams⟩, ⟨hphase, hcommand, htx, hresp, hport⟩, hevents⟩
    exact ⟨hcnt, hheld, hphase, hcommand, htx, hstatus, hresp, hparams, hport, hevents⟩

/-- Neither unit reads the script. -/
theorem DecoderAgrees.with_events {s t : State} (h : DecoderAgrees s t) (es es' : List Event) :
    DecoderAgrees { s with events := es } { t with events := es' } := { h with }

theorem UnitAgrees.with_events {s t : State} (h : UnitAgrees s t) (es es' : List Event) :
    UnitAgrees { s with events := es } { t with events := es' } := { h with }

/-! ### What an event of the command unit leaves unchanged (10 R33) -/

theorem unitFrame_acceptHeld (n : Nat) (s : State) : UnitFrame s (s.acceptHeld n) := by
  by_cases hp : s.cuPhase = .idle
  · cases hw : s.cmdPort[n]? with
    | none => rw [acceptHeld_none hw]; exact .refl s
    | some w =>
      rw [acceptHeld_idle hp hw, ← presentWord_idle w { s with cmdPort := s.cmdPort.eraseIdx n } hp]
      exact { unitFrame_presentWord w { s with cmdPort := s.cmdPort.eraseIdx n } with }
  · rw [acceptHeld_busy n s hp]
    exact .refl s

theorem unitFrame_takeEvent {e : Event} (he : commandEvent e = true) (s : State) : UnitFrame s (s.takeEvent e) := by
  cases e with
  | cmd w => exact unitFrame_presentWord w s
  | accept n => exact unitFrame_acceptHeld n s
  | txAnswer a => exact unitFrame_takeAnswer a s
  | rx bytes => cases he
  | reset k => cases he

/-! ### The decoder reads the held bytes only -/

/-- Operations that leave the decoder's elements keep its agreement. -/
theorem DecoderAgrees.of_unitFrame {s t s' t' : State} (h : DecoderAgrees s t) (hs : UnitFrame s s')
    (ht : UnitFrame t t') : DecoderAgrees s' t' where
  rxCnt := by rw [hs.rxCnt, ht.rxCnt, h.rxCnt]
  held := by rw [hs.rxCnt, hs.rxBuf, ht.rxBuf]; exact h.held
  statusLog := by rw [hs.statusLog, ht.statusLog, h.statusLog]
  params := by rw [hs.params, ht.params, h.params]

/-- A completed frame is made of held bytes. -/
theorem completedFrame_congr {s t : State} (h : DecoderAgrees s t) (hcnt : s.rxCnt = 7) (b : Byte) :
    s.completedFrame b = t.completedFrame b := by
  have hheld (j : Fin 7) : s.rxBuf[j] = t.rxBuf[j] := h.held j (by rw [hcnt]; exact j.isLt)
  exact Frame.mk.injEq .. ▸ ⟨hheld 0, hheld 1, hheld 2, hheld 3, hheld 4, hheld 5, hheld 6, rfl⟩

theorem decoderAgrees_accumulate {s t : State} (h : DecoderAgrees s t) (b : Byte) :
    DecoderAgrees (s.accumulate b) (t.accumulate b) where
  rxCnt := congrArg (· + 1) h.rxCnt
  held j hj := by
    simp only [accumulate_rxCnt, accumulate_rxBuf, Fin.getElem_fin, Vector.getElem_setIfInBounds, ← h.rxCnt] at hj ⊢
    split
    · rfl
    · refine h.held j ?_
      bv_omega
  statusLog := h.statusLog
  params := h.params

theorem decoderAgrees_receive {s t : State} (h : DecoderAgrees s t) (b : Byte) :
    DecoderAgrees (s.receive b) (t.receive b) := by
  by_cases hcnt : s.rxCnt = 7
  · rw [receive_completing b s hcnt, receive_completing b t (h.rxCnt ▸ hcnt), completedFrame_congr h hcnt]
    exact ⟨rfl, fun j hj => absurd hj (Nat.not_lt_zero _), by simp [h.statusLog, h.params], h.params⟩
  · rw [receive_accumulating b s hcnt, receive_accumulating b t (h.rxCnt ▸ hcnt)]
    exact decoderAgrees_accumulate h b

theorem unitAgrees_receive {s t : State} (h : UnitAgrees s t) (b : Byte) : UnitAgrees (s.receive b) (t.receive b) := by
  rw [receive_frame b s, receive_frame b t]
  exact ⟨h.phase, h.command, h.txLog, h.respLog, h.cmdPort⟩

/-! ### The command unit reads the command in flight only -/

theorem unitAgrees_respond {s t : State} (h : UnitAgrees s t) (c : RespCode) :
    UnitAgrees (s.respond c) (t.respond c) :=
  { h with respLog := congrArg (· ++ [c]) h.respLog }

theorem unitAgrees_appendTx {s t : State} (h : UnitAgrees s t) (bytes : List Byte) :
    UnitAgrees (s.appendTx bytes) (t.appendTx bytes) :=
  { h with txLog := congrArg (· ++ bytes) h.txLog }

theorem unitAgrees_hold {s t : State} (h : UnitAgrees s t) (w : CmdWord) : UnitAgrees (s.hold w) (t.hold w) :=
  { h with cmdPort := congrArg (· ++ [w]) h.cmdPort }

/-- Once the unit is idle the command in flight is dead. -/
theorem unitAgrees_setPhase_idle {s t : State} (h : UnitAgrees s t) :
    UnitAgrees (s.setPhase .idle) (t.setPhase .idle) :=
  { h with phase := rfl, command := fun hp => absurd rfl hp }

theorem unitAgrees_acceptQuery {s t : State} (h : UnitAgrees s t) : UnitAgrees s.acceptQuery t.acceptQuery :=
  { h with phase := rfl, command := fun _ => ⟨rfl, rfl, fun hop => absurd rfl hop⟩ }

theorem unitAgrees_acceptSet {s t : State} (h : UnitAgrees s t) (idx : Byte) (d : Desired) :
    UnitAgrees (s.acceptSet idx d) (t.acceptSet idx d) := by
  by_cases hidx : idx.toNat ≤ 3
  · rw [acceptSet_legal idx d s hidx, acceptSet_legal idx d t hidx]
    exact { h with phase := rfl, command := fun _ => ⟨rfl, rfl, fun _ => rfl⟩ }
  · rw [acceptSet_illegal idx d s (by omega), acceptSet_illegal idx d t (by omega)]
    exact unitAgrees_respond h _

theorem unitAgrees_acceptPulse {s t : State} (h : UnitAgrees s t) (idx : Byte) :
    UnitAgrees (s.acceptPulse idx) (t.acceptPulse idx) := by
  by_cases hidx : idx.toNat ≤ 3
  · rw [acceptPulse_legal idx s hidx, acceptPulse_legal idx t hidx]
    exact { h with phase := rfl, command := fun _ => ⟨rfl, rfl, fun _ => rfl⟩ }
  · rw [acceptPulse_illegal idx s (by omega), acceptPulse_illegal idx t (by omega)]
    exact unitAgrees_respond h _

theorem unitAgrees_acceptWord {s t : State} (h : UnitAgrees s t) (w : CmdWord) :
    UnitAgrees (acceptWord w s) (acceptWord w t) := by
  obtain hop | hop | hop | hop : w.toNat % 4 = 0 ∨ w.toNat % 4 = 1 ∨ w.toNat % 4 = 2 ∨ w.toNat % 4 = 3 := by omega
  · rw [acceptWord_query hop, acceptWord_query hop]
    exact unitAgrees_acceptQuery h
  · rw [acceptWord_set hop, acceptWord_set hop]
    exact unitAgrees_acceptSet h _ _
  · rw [acceptWord_pulse hop, acceptWord_pulse hop]
    exact unitAgrees_acceptPulse h _
  · rw [acceptWord_reserved hop, acceptWord_reserved hop]
    exact unitAgrees_respond h _

theorem unitAgrees_presentWord {s t : State} (h : UnitAgrees s t) (w : CmdWord) :
    UnitAgrees (s.presentWord w) (t.presentWord w) := by
  by_cases hp : s.cuPhase = .idle
  · rw [presentWord_idle w s hp, presentWord_idle w t (h.phase ▸ hp)]
    exact unitAgrees_acceptWord h w
  · rw [presentWord_busy w s hp, presentWord_busy w t (h.phase ▸ hp)]
    exact unitAgrees_hold h w

theorem unitAgrees_acceptHeld {s t : State} (h : UnitAgrees s t) (n : Nat) :
    UnitAgrees (s.acceptHeld n) (t.acceptHeld n) := by
  by_cases hp : s.cuPhase = .idle
  · cases hw : s.cmdPort[n]? with
    | none => rwa [acceptHeld_none hw, acceptHeld_none (h.cmdPort ▸ hw)]
    | some w =>
      have hrest : UnitAgrees { s with cmdPort := s.cmdPort.eraseIdx n } { t with cmdPort := t.cmdPort.eraseIdx n } :=
        { h with cmdPort := by rw [h.cmdPort] }
      rw [acceptHeld_idle hp hw, acceptHeld_idle (h.phase ▸ hp) (h.cmdPort ▸ hw)]
      exact unitAgrees_acceptWord hrest w
  · rwa [acceptHeld_busy n s hp, acceptHeld_busy n t (h.phase ▸ hp)]

/-- The second frame of a PULSE is built from its index, which is live (40 R86). -/
theorem unitAgrees_answerOk {s t : State} (h : UnitAgrees s t) (hp : s.cuPhase ≠ .idle) :
    UnitAgrees s.answerOk t.answerOk := by
  obtain ⟨hop, hframe, hidx⟩ := h.command hp
  have hsent : UnitAgrees (s.appendTx s.cuFrame.bytes) (t.appendTx t.cuFrame.bytes) :=
    hframe ▸ unitAgrees_appendTx h _
  by_cases hfirst : s.cuPhase = .wait1 ∧ s.cuOp = .pulse
  · have hidx := hidx (by simp [hfirst.2])
    rw [answerOk_first_of_pulse s hfirst.1 hfirst.2,
      answerOk_first_of_pulse t (h.phase ▸ hfirst.1) (hop ▸ hfirst.2), ← hidx]
    exact { hsent with phase := rfl, command := fun _ => ⟨hop, rfl, fun _ => hidx⟩ }
  · rw [answerOk_last s hfirst, answerOk_last t (by rwa [← h.phase, ← hop])]
    exact unitAgrees_setPhase_idle (unitAgrees_respond hsent _)

theorem unitAgrees_answerFail {s t : State} (h : UnitAgrees s t) (hp : s.cuPhase ≠ .idle) (k : Fin 9) :
    UnitAgrees (s.answerFail k) (t.answerFail k) := by
  obtain ⟨-, hframe, -⟩ := h.command hp
  unfold State.answerFail
  rw [← hframe]
  exact unitAgrees_setPhase_idle (unitAgrees_respond (unitAgrees_appendTx h _) _)

theorem unitAgrees_takeAnswer {s t : State} (h : UnitAgrees s t) (a : TxAnswer) :
    UnitAgrees (s.takeAnswer a) (t.takeAnswer a) := by
  by_cases hp : s.cuPhase = .idle
  · rwa [takeAnswer_idle a s hp, takeAnswer_idle a t (h.phase ▸ hp)]
  · cases a with
    | ok =>
      rw [takeAnswer_ok s hp, takeAnswer_ok t (h.phase ▸ hp)]
      exact unitAgrees_answerOk h hp
    | fail k =>
      rw [takeAnswer_fail k s hp, takeAnswer_fail k t (h.phase ▸ hp)]
      exact unitAgrees_answerFail h hp k

/-! ### Reset and the step -/

theorem unitAgrees_takeReset {s t : State} (h : UnitAgrees s t) (k : Fin 9) :
    UnitAgrees (s.takeReset k) (t.takeReset k) where
  phase := rfl
  command hp := absurd rfl hp
  txLog := by
    rw [takeReset_txLog, takeReset_txLog, ← h.phase, h.txLog]
    split
    · rfl
    · next hp => rw [(h.command hp).2.1]
  respLog := by rw [takeReset_respLog, takeReset_respLog, h.respLog]
  cmdPort := by rw [takeReset_cmdPort, takeReset_cmdPort, h.cmdPort]

theorem decoderAgrees_takeReset {s t : State} (h : DecoderAgrees s t) (k : Fin 9) :
    DecoderAgrees (s.takeReset k) (t.takeReset k) where
  rxCnt := rfl
  held j hj := absurd hj (Nat.not_lt_zero _)
  statusLog := by rw [takeReset_statusLog, takeReset_statusLog, h.statusLog]
  params := by rw [takeReset_params, takeReset_params, h.params]

@[simp] theorem receive_events (b : Byte) (s : State) : (s.receive b).events = s.events := by
  rw [receive_frame]

theorem unitAgrees_takeEvent {s t : State} (h : UnitAgrees s t) (e : Event) :
    UnitAgrees (s.takeEvent e) (t.takeEvent e) := by
  cases e with
  | cmd w => exact unitAgrees_presentWord h w
  | accept n => exact unitAgrees_acceptHeld h n
  | rx bytes =>
    cases bytes with
    | nil => exact h
    | cons b rest => exact unitAgrees_receive (h.with_events _ _) b
  | txAnswer a => exact unitAgrees_takeAnswer h a
  | reset k => exact unitAgrees_takeReset h k

theorem decoderAgrees_takeEvent {s t : State} (h : DecoderAgrees s t) (e : Event) :
    DecoderAgrees (s.takeEvent e) (t.takeEvent e) := by
  cases e with
  | cmd | accept | txAnswer => exact h.of_unitFrame (unitFrame_takeEvent rfl s) (unitFrame_takeEvent rfl t)
  | rx bytes =>
    cases bytes with
    | nil => exact h
    | cons b rest => exact decoderAgrees_receive (h.with_events _ _) b
  | reset k => exact decoderAgrees_takeReset h k

/-- What is left of the script depends on the script only. -/
theorem takeEvent_events_congr {s t : State} (h : s.events = t.events) (e : Event) :
    (s.takeEvent e).events = (t.takeEvent e).events := by
  cases e with
  | cmd | accept | txAnswer => rw [(unitFrame_takeEvent rfl s).events, (unitFrame_takeEvent rfl t).events, h]
  | rx bytes =>
    cases bytes with
    | nil => exact h
    | cons b rest => simp only [State.takeEvent, receive_events, h]
  | reset k => simp only [State.takeEvent, takeReset_events, h]

/-- What an event does shows only in what it reads. -/
theorem sameLive_takeEvent {s t : State} (h : SameLive s t) (e : Event) :
    SameLive (s.takeEvent e) (t.takeEvent e) := by
  obtain ⟨hdecoder, hunit, hevents⟩ := (sameLive_iff s t).mp h
  exact (sameLive_iff _ _).mpr
    ⟨decoderAgrees_takeEvent hdecoder e, unitAgrees_takeEvent hunit e, takeEvent_events_congr hevents e⟩

theorem sameLive_with_events {s t : State} (h : SameLive s t) (es : List Event) :
    SameLive { s with events := es } { t with events := es } := by
  obtain ⟨hdecoder, hunit, -⟩ := (sameLive_iff s t).mp h
  exact (sameLive_iff _ _).mpr ⟨hdecoder.with_events es es, hunit.with_events es es, rfl⟩

theorem SameLive.events {s t : State} (h : SameLive s t) : s.events = t.events :=
  ((sameLive_iff s t).mp h).2.2

end Sys2Proof.Machine

namespace Sys2Proof

open Sys2Proof.Machine

/-- Settles O58: the two states have the same next event, and what it does shows only in what it reads. -/
theorem deadValuesNeverShow : Obligations.DeadValuesNeverShow := by
  intro s t h
  cases hev : s.events with
  | nil => exact ⟨s, t, quietWithoutEvents s hev, quietWithoutEvents t (h.events ▸ hev), h⟩
  | cons e es =>
    exact ⟨_, _, step_event s e es hev, step_event t e es (h.events ▸ hev),
      sameLive_takeEvent (sameLive_with_events h es) e⟩

end Sys2Proof
end

section
/-! The inbound stream: the bytes held are the start of the next frame, and a delivery of any length gives the STATUS
events of the frames it completes (20 R44, R45, R51; 41 R100 to R111). -/

namespace Sys2Proof.Machine

/-! ### The held bytes and the completed frame (10 R22, R23; 41 R102) -/

/-- The bytes held of the current inbound frame (10 R23). -/
def State.held (s : State) : List Byte := s.rxBuf.toList.take s.rxCnt.toNat

theorem window_eq_held_append (b : Byte) (s : State) : s.window b = s.held ++ [b] := rfl

@[simp] theorem held_length (s : State) : s.held.length = s.rxCnt.toNat := by
  have h := window_length 0 s
  rw [window_eq_held_append, List.length_append, List.length_singleton] at h
  omega

theorem held_boundary {s : State} (h : s.rxCnt = 0) : s.held = [] := List.eq_nil_of_length_eq_zero (by simp [h])

theorem held_getElem? (s : State) (j : Fin 7) (hj : j.val < s.rxCnt.toNat) : s.held[j.val]? = some s.rxBuf[j] := by
  rw [State.held, List.getElem?_take_of_lt hj, List.getElem?_eq_getElem (by simp)]
  rfl

theorem held_full {s : State} (h : s.rxCnt = 7) : s.held = s.rxBuf.toList := List.take_of_length_le (by simp [h])

/-- The held bytes and the completing one are the completed frame. -/
theorem held_append_eq_completedFrame (b : Byte) (s : State) (h : s.rxCnt = 7) :
    s.held ++ [b] = (s.completedFrame b).bytes := window_full b s h

/-- The completed frame is `f` iff the buffer holds the first seven bytes of `f` and the eighth is delivered. -/
theorem completedFrame_eq_iff (f : Frame) (s : State) :
    s.completedFrame f.b7 = f ↔ s.rxBuf = #v[f.b0, f.b1, f.b2, f.b3, f.b4, f.b5, f.b6] := by
  refine ⟨fun h => ?_, fun h => completedFrame_of_rxBuf h f.b7⟩
  rw [← h]
  ext i hi
  interval_cases i <;> rfl

/-! ### One byte -/

/-- Every byte counts one on, from seven to the next boundary (41 R101, R102). -/
theorem receive_rxCnt (b : Byte) (s : State) : (s.receive b).rxCnt = s.rxCnt + 1 := by
  by_cases h : s.rxCnt = 7
  · rw [receive_completing b s h, h]
    rfl
  · rw [receive_accumulating b s h, accumulate_rxCnt]

theorem receive_statusLog_prefix (b : Byte) (s : State) : s.statusLog <+: (s.receive b).statusLog :=
  (logsGrow_receive b s).status.isPrefix

theorem receive_held_accumulating (b : Byte) (s : State) (h : s.rxCnt ≠ 7) : (s.receive b).held = s.held ++ [b] := by
  have hcnt : s.rxCnt.toNat < 7 := by bv_omega
  have hnext : (s.rxCnt + 1).toNat = s.rxCnt.toNat + 1 := by bv_omega
  rw [receive_accumulating b s h, accumulate_eq_set b s hcnt, State.held, State.held, hnext,
    List.take_succ_eq_append_getElem (by simpa using hcnt)]
  simp [Vector.toList_set, List.take_set_of_le]

theorem receive_held_completing (b : Byte) (s : State) (h : s.rxCnt = 7) : (s.receive b).held = [] :=
  held_boundary (by rw [receive_completing b s h])

/-! ### Cutting a stream in frames (20 R44) -/

theorem cutFrames_short {bytes : List Byte} (h : bytes.length < 8) : cutFrames bytes = [] := by
  unfold cutFrames
  split
  · simp at h
    omega
  · rfl

theorem cutFrames_frame_append (f : Frame) (rest : List Byte) : cutFrames (f.bytes ++ rest) = f :: cutFrames rest := by
  simp [Frame.bytes, cutFrames]

theorem streamStatus_short (p : Params) {bytes : List Byte} (h : bytes.length < 8) : streamStatus p bytes = [] := by
  rw [streamStatus, cutFrames_short h, List.filterMap_nil]

theorem streamStatus_frame_append (p : Params) (f : Frame) (rest : List Byte) :
    streamStatus p (f.bytes ++ rest) = (statusOf p f).toList ++ streamStatus p rest := by
  rw [streamStatus, cutFrames_frame_append, List.filterMap_cons, streamStatus]
  cases statusOf p f <;> rfl

/-! ### Any number of bytes (41 R111) -/

theorem receiveAll_rxCnt (bytes : List Byte) (s : State) :
    (s.receiveAll bytes).rxCnt.toNat = (s.rxCnt.toNat + bytes.length) % 8 := by
  induction bytes generalizing s with
  | nil => simp [Nat.mod_eq_of_lt s.rxCnt.isLt]
  | cons b bs ih =>
    have hone : (1 : BitVec 3).toNat = 1 := rfl
    rw [receiveAll_cons, ih, receive_rxCnt, BitVec.toNat_add, List.length_cons, hone]
    omega

/-- The STATUS events of a delivery are those of the stream that the held bytes begin. -/
theorem receiveAll_statusLog (bytes : List Byte) (s : State) :
    (s.receiveAll bytes).statusLog = s.statusLog ++ streamStatus s.params (s.held ++ bytes) := by
  induction bytes generalizing s with
  | nil => rw [receiveAll_nil, streamStatus_short _ (by simp; omega), List.append_nil]
  | cons b bs ih =>
    have hstream : s.held ++ b :: bs = s.held ++ [b] ++ bs := by simp
    rw [receiveAll_cons, ih, receive_params, hstream]
    by_cases h : s.rxCnt = 7
    · rw [receive_held_completing b s h, held_append_eq_completedFrame b s h, streamStatus_frame_append,
        receive_completing b s h, List.nil_append, List.append_assoc]
    · rw [receive_held_accumulating b s h, receive_accumulating b s h, accumulate_statusLog]

/-- What is held after a delivery is the end of the stream that the held bytes began. -/
theorem receiveAll_held_suffix (bytes : List Byte) (s : State) :
    (s.receiveAll bytes).held <:+ s.held ++ bytes := by
  induction bytes generalizing s with
  | nil => simp
  | cons b bs ih =>
    have hrest := ih (s.receive b)
    rw [receiveAll_cons]
    by_cases h : s.rxCnt = 7
    · rw [receive_held_completing b s h] at hrest
      exact hrest.trans ((List.suffix_cons b bs).trans (List.suffix_append _ _))
    · rw [receive_held_accumulating b s h] at hrest
      simpa using hrest

/-- Fewer bytes than complete a frame are all held. -/
theorem receiveAll_held_of_lt (bytes : List Byte) (s : State) (h : s.rxCnt.toNat + bytes.length < 8) :
    (s.receiveAll bytes).held = s.held ++ bytes := by
  refine (receiveAll_held_suffix bytes s).eq_of_length ?_
  rw [held_length, receiveAll_rxCnt, List.length_append, held_length, Nat.mod_eq_of_lt h]

/-! ### Whole frames (41 R102 to R105) -/

/-- The first seven bytes of a frame on a frame boundary fill the buffer. -/
theorem receiveAll_seven (b0 b1 b2 b3 b4 b5 b6 : Byte) (s : State) (h : s.rxCnt = 0) :
    s.receiveAll [b0, b1, b2, b3, b4, b5, b6] = { s with rxCnt := 7, rxBuf := #v[b0, b1, b2, b3, b4, b5, b6] } := by
  have hlt : s.rxCnt.toNat + [b0, b1, b2, b3, b4, b5, b6].length < 8 := by simp [h]
  have hcnt : (s.receiveAll [b0, b1, b2, b3, b4, b5, b6]).rxCnt = 7 :=
    BitVec.eq_of_toNat_eq (by rw [receiveAll_rxCnt, h]; rfl)
  have hbuf : (s.receiveAll [b0, b1, b2, b3, b4, b5, b6]).rxBuf = #v[b0, b1, b2, b3, b4, b5, b6] := by
    rw [← Vector.toList_inj, ← held_full hcnt, receiveAll_held_of_lt _ s hlt, held_boundary h]
    rfl
  have hstatus : (s.receiveAll [b0, b1, b2, b3, b4, b5, b6]).statusLog = s.statusLog := by
    rw [receiveAll_statusLog, held_boundary h, streamStatus_short _ (by simp), List.append_nil]
  rw [receiveAll_frame, hcnt, hbuf, hstatus]

/-- A whole frame on a frame boundary: its first seven bytes fill the buffer and its eighth completes it. -/
theorem receiveAll_bytes_boundary (f : Frame) (s : State) (h : s.rxCnt = 0) :
    s.receiveAll f.bytes =
      { s with
        rxBuf := #v[f.b0, f.b1, f.b2, f.b3, f.b4, f.b5, f.b6]
        statusLog := if valid s.params f then s.statusLog ++ [relayVector f] else s.statusLog } := by
  have hbytes : f.bytes = [f.b0, f.b1, f.b2, f.b3, f.b4, f.b5, f.b6] ++ [f.b7] := rfl
  rw [hbytes, receiveAll_append, receiveAll_seven _ _ _ _ _ _ _ s h, receiveAll_cons, receiveAll_nil,
    receive_completing_ite _ _ rfl, completedFrame_of_rxBuf rfl, ← h]

/-- A whole frame at any position brings the count back to where it was. -/
theorem receiveAll_bytes_rxCnt (f : Frame) (s : State) : (s.receiveAll f.bytes).rxCnt = s.rxCnt := by
  have hn := s.rxCnt.isLt
  have hlen : f.bytes.length = 8 := rfl
  refine BitVec.eq_of_toNat_eq ?_
  rw [receiveAll_rxCnt, hlen]
  omega

/-- As many bytes as before are then held: the last ones of the frame. -/
theorem receiveAll_bytes_held (f : Frame) (s : State) :
    (s.receiveAll f.bytes).held = f.bytes.drop (8 - s.rxCnt.toNat) := by
  have hn := s.rxCnt.isLt
  have hlen : f.bytes.length = 8 := rfl
  rw [List.suffix_iff_eq_drop.mp (receiveAll_held_suffix f.bytes s), List.length_append, held_length, held_length, hlen,
    receiveAll_bytes_rxCnt, Nat.add_sub_cancel_left, List.drop_append, held_length,
    List.drop_of_length_le (by simp; omega), List.nil_append]

/-! ### The steps of a notification (41 R111) -/

/-- A notification is one step a byte, and one step if it has none. -/
theorem stepN_rx (s : State) (bytes : List Byte) (es : List Event) (h : s.events = .rx bytes :: es) :
    stepN (max bytes.length 1) s = .next { s.receiveAll bytes with events := es } := by
  induction bytes generalizing s with
  | nil => exact stepN_succ 0 s _ (step_rx_empty s es h)
  | cons b rest ih =>
    have hstep := step_rx s b rest es h
    rw [receive_with_events] at hstep
    rw [Nat.max_eq_left (by simp), List.length_cons, stepN_succ _ s _ hstep]
    cases rest with
    | nil => rfl
    | cons c rest =>
      have hrest := ih { s.receive b with events := pushRx (c :: rest) es } rfl
      rwa [Nat.max_eq_left (by simp), receiveAll_with_events] at hrest

/-- A whole frame in one notification is eight steps. -/
theorem stepN_rx_frame (s : State) (f : Frame) (es : List Event) (h : s.events = .rx f.bytes :: es) :
    stepN 8 s = .next { s.receiveAll f.bytes with events := es } := stepN_rx s f.bytes es h

/-! ### The decoder's rows (41 R100, R102) -/

/-- FRAME_STATUS on the frame that completes is the delivery of its eighth byte. -/
theorem exec_frameStatus_completing (f : Frame) (s : State) (hcnt : s.rxCnt = 7)
    (hbuf : s.rxBuf = #v[f.b0, f.b1, f.b2, f.b3, f.b4, f.b5, f.b6]) :
    exec (.frameStatus f) s = .next (s.receive f.b7) := by
  have hheld := completeFrame_held f.b7 s hcnt
  rw [(completedFrame_eq_iff f s).mpr hbuf] at hheld
  exact congrArg _ hheld

/-- A row of the decoder delivers one byte or does nothing. -/
theorem exec_decoder_cases {i : Instr} {s t : State} (hi : ofCommandUnit i = false) (h : exec i s = .next t) :
    t = s ∨ ∃ b, t = s.receive b := by
  cases i with
  | rxByte b => exact .inr ⟨b, (Host.Outcome.next.inj h).symm⟩
  | frameStatus f =>
    obtain rfl := Host.Outcome.next.inj h
    exact (completeFrame_cases f s).symm.imp_right fun hreceive => ⟨f.b7, hreceive⟩
  | _ => cases hi

end Sys2Proof.Machine

namespace Sys2Proof

open Sys2Proof.Machine

/-- Settles O42: the eight steps deliver the frame's bytes, from a boundary. -/
theorem statusFrameOnBoundary : Obligations.StatusFrameOnBoundary := by
  intro s f es hcnt h
  rw [stepN_rx_frame s f es h, receiveAll_bytes_boundary f s hcnt]

/-- Settles O43: eight bytes bring the count back to n, and the bytes then held are the last n of `f`. -/
theorem statusFrameAtAnyPosition : Obligations.StatusFrameAtAnyPosition := by
  intro s f es h
  have hrun := stepN_rx_frame s f es h
  have hcnt := receiveAll_bytes_rxCnt f s
  have hstatus := receiveAll_statusLog f.bytes s
  have hheld := receiveAll_bytes_held f s
  generalize s.receiveAll f.bytes = t at *
  refine ⟨_, hrun, rfl, hcnt, hstatus, fun j hj => ?_⟩
  rw [← List.getElem?_drop, ← hheld, held_getElem? t j (by rwa [hcnt])]

/-- Settles O46: both sides deliver the bytes one by one. -/
theorem chunkIsBytesInOrder : Obligations.ChunkIsBytesInOrder := by
  intro s bytes es h
  rw [stepN_rx s bytes es h, ← receiveAll_with_events]
  clear h
  generalize ({ s with events := es } : State) = t
  induction bytes generalizing t with
  | nil => rfl
  | cons b bs ih => exact ih (t.receive b)

/-- Settles O48: on a boundary nothing is held, so the stream is the bytes delivered. -/
theorem streamCutInEights : Obligations.StreamCutInEights := by
  intro s bytes es h hcnt
  have hstatus := receiveAll_statusLog bytes s
  rw [held_boundary hcnt, List.nil_append] at hstatus
  have hlen : (s.receiveAll bytes).rxCnt.toNat = bytes.length % 8 := by
    rw [receiveAll_rxCnt, hcnt, show (0 : BitVec 3).toNat = 0 from rfl, Nat.zero_add]
  obtain ⟨-, -, -, -, htx, hresp⟩ := UnitView.mk.inj (receiveAll_unitView bytes s)
  exact ⟨_, stepN_rx s bytes es h, rfl, hstatus, hlen, htx, hresp⟩

/-- Settles O49: an outbound frame begins with 0x55, so on a boundary it is an invalid frame. -/
theorem loopedBackFrameDropped : Obligations.LoopedBackFrameDropped := by
  intro s f es hf hcnt hmarker h
  have hb0 : f.b0 = 0x55 := by
    clear h
    revert f
    decide
  have hinvalid : ¬valid s.params f = true := fun hv => hmarker (((valid_iff s.params f).mp hv).1.symm.trans hb0)
  refine ⟨_, statusFrameOnBoundary s f es hcnt h, rfl, hcnt, if_neg hinvalid⟩

/-- Settles O44: the row on its completing frame is the delivery of the eighth byte. -/
theorem statusFrameCompletes : Obligations.StatusFrameCompletes := by
  intro s f hcnt hbuf
  rw [exec_frameStatus_completing f s hcnt hbuf, receive_completing_ite _ s hcnt, completedFrame_of_rxBuf hbuf]
  split
  · rfl
  · rfl

/-- Settles O45: where the buffer does not hold the first seven bytes, `f` is not the frame that completes. -/
theorem statusFrameNotCompletingUnchanged : Obligations.StatusFrameNotCompletingUnchanged :=
  fun s f h => congrArg _ (completeFrame_other f s (h.imp_right (mt (completedFrame_eq_iff f s).mp)))

/-- Settles O54: the phase is read off the count, which is below 8. -/
theorem decoderPhases : Obligations.DecoderPhases := by
  intro s
  have hlt := s.rxCnt.isLt
  by_cases h : s.rxCnt = 0
  · have hphase : s.decoderPhase = .idle := if_pos h
    rw [hphase]
    exact ⟨iff_of_true rfl h, iff_of_false (by simp) (by simp [h]), by simp⟩
  · have hphase : s.decoderPhase = .accumulating := if_neg h
    have hpos : s.rxCnt.toNat ≠ 0 := fun h0 => h (BitVec.eq_of_toNat_eq h0)
    rw [hphase]
    exact ⟨iff_of_false (by simp) h, iff_of_true rfl (by omega), by simp⟩

/-- Settles O55: a row of the decoder delivers a byte, which keeps everything but the decoder's elements, or does
nothing. -/
theorem decoderFrame : Obligations.DecoderFrame := by
  intro i s t hi h
  obtain rfl | ⟨b, rfl⟩ := exec_decoder_cases hi h
  · exact ⟨rfl, rfl, rfl, rfl, rfl, rfl, rfl, rfl, rfl, rfl, List.prefix_rfl⟩
  · have hstatus := receive_statusLog_prefix b s
    rw [receive_frame b s]
    exact ⟨rfl, rfl, rfl, rfl, rfl, rfl, rfl, rfl, rfl, rfl, hstatus⟩

end Sys2Proof
end

section
/-! The reference software's decoder against the block's: what it keeps unread is the rest of the stream, and it can lag
behind (41 R112). -/

namespace Sys2Proof.Machine

theorem streamStatus_frame_cons (p : Params) (b0 b1 b2 b3 b4 b5 b6 b7 : Byte) (rest : List Byte) :
    streamStatus p (b0 :: b1 :: b2 :: b3 :: b4 :: b5 :: b6 :: b7 :: rest) =
      (statusOf p ⟨b0, b1, b2, b3, b4, b5, b6, b7⟩).toList ++ streamStatus p rest :=
  streamStatus_frame_append p ⟨b0, b1, b2, b3, b4, b5, b6, b7⟩ rest

/-- A notification moves the STATUS of at most one frame from the unread stream to what is notified; together they stay
the same. -/
theorem referenceNotify_stream (p : Params) (r : Reference) (chunk later : List Byte) :
    (referenceNotify p r chunk).notified ++ streamStatus p ((referenceNotify p r chunk).unread ++ later) =
      r.notified ++ streamStatus p (r.unread ++ (chunk ++ later)) := by
  rw [← List.append_assoc r.unread]
  unfold referenceNotify
  split
  next b0 b1 b2 b3 b4 b5 b6 b7 rest hbytes =>
    rw [hbytes, List.append_assoc]
    exact congrArg _ (streamStatus_frame_cons p b0 b1 b2 b3 b4 b5 b6 b7 (rest ++ later)).symm
  next => rfl

/-- What is notified in the end continues what was notified, and the unread stream with the chunks gives all of it. -/
theorem notified_foldl_prefix (p : Params) (chunks : List (List Byte)) (r : Reference) :
    (chunks.foldl (referenceNotify p) r).notified <+:
      r.notified ++ streamStatus p (r.unread ++ chunks.flatten) := by
  induction chunks generalizing r with
  | nil => exact List.prefix_append _ _
  | cons chunk chunks ih =>
    rw [List.flatten_cons, ← referenceNotify_stream]
    exact ih (referenceNotify p r chunk)

theorem referenceRun_prefix (p : Params) (chunks : List (List Byte)) :
    (referenceRun p chunks).notified <+: streamStatus p chunks.flatten :=
  notified_foldl_prefix p chunks { unread := [], notified := [] }

end Sys2Proof.Machine

namespace Sys2Proof

open Sys2Proof.Machine

/-- Settles O59: the block gives every STATUS of the stream, the reference the first of them; it notifies once for V1 of
spec 95 delivered twice in one chunk. -/
theorem referenceIsPrefix : Obligations.ReferenceIsPrefix := by
  refine ⟨fun s chunks hcnt hlog h => ?_, [[0x34, 1, 1, 2, 1, 1, 1, 0x3B, 0x34, 1, 1, 2, 1, 1, 1, 0x3B]], by decide⟩
  obtain ⟨t, hrun, hevents, hstatus, -⟩ := streamCutInEights s chunks.flatten [] h hcnt
  refine ⟨_, t, hrun, hevents, ?_⟩
  rw [hstatus, hlog, List.nil_append]
  exact referenceRun_prefix s.params chunks

end Sys2Proof
end

section
/-! The two units do not touch each other's elements: the command unit's events do the same whatever the decoder holds,
so a byte can be delivered before or after them (10 R33, 20 R52), and no event looks at the consumer (41 R108). -/

namespace Sys2Proof.Machine

/-- `s` with everything taken from `u` that the command unit leaves alone: the decoder's elements, the STATUS events,
the parameters, the script and the draw count. -/
def State.withRestOf (s u : State) : State :=
  { s with
    rxCnt := u.rxCnt, rxBuf := u.rxBuf, statusLog := u.statusLog, params := u.params, events := u.events
    draws := u.draws }

/-! ### The command unit's operations do not look at the rest -/

theorem acceptWord_withRestOf (w : CmdWord) (s u : State) :
    acceptWord w (s.withRestOf u) = (acceptWord w s).withRestOf u := by
  unfold acceptWord State.acceptSet State.acceptPulse
  repeat' split
  all_goals rfl

theorem presentWord_withRestOf (w : CmdWord) (s u : State) :
    (s.withRestOf u).presentWord w = (s.presentWord w).withRestOf u := by
  by_cases hp : s.cuPhase = .idle
  · rw [presentWord_idle w s hp, presentWord_idle w (s.withRestOf u) hp, acceptWord_withRestOf]
  · rw [presentWord_busy w s hp, presentWord_busy w (s.withRestOf u) hp]
    rfl

theorem acceptHeld_withRestOf (n : Nat) (s u : State) :
    (s.withRestOf u).acceptHeld n = (s.acceptHeld n).withRestOf u := by
  by_cases hp : s.cuPhase = .idle
  · cases hw : s.cmdPort[n]? with
    | none => rw [acceptHeld_none hw, acceptHeld_none (s := s.withRestOf u) hw]
    | some w =>
      rw [acceptHeld_idle hp hw, acceptHeld_idle (s := s.withRestOf u) hp hw, ← acceptWord_withRestOf]
      rfl
  · rw [acceptHeld_busy n s hp, acceptHeld_busy n (s.withRestOf u) hp]

theorem answerOk_withRestOf (s u : State) : (s.withRestOf u).answerOk = s.answerOk.withRestOf u := by
  by_cases h : s.cuPhase = .wait1 ∧ s.cuOp = .pulse
  · rw [answerOk_first_of_pulse s h.1 h.2, answerOk_first_of_pulse (s.withRestOf u) h.1 h.2]
    rfl
  · rw [answerOk_last s h, answerOk_last (s.withRestOf u) h]
    rfl

theorem takeAnswer_withRestOf (a : TxAnswer) (s u : State) :
    (s.withRestOf u).takeAnswer a = (s.takeAnswer a).withRestOf u := by
  by_cases hp : s.cuPhase = .idle
  · rw [takeAnswer_idle a s hp, takeAnswer_idle a (s.withRestOf u) hp]
  · cases a with
    | ok => rw [takeAnswer_ok s hp, takeAnswer_ok (s.withRestOf u) hp, answerOk_withRestOf]
    | fail k =>
      rw [takeAnswer_fail k s hp, takeAnswer_fail k (s.withRestOf u) hp]
      rfl

theorem takeEvent_withRestOf {e : Event} (he : commandEvent e = true) (s u : State) :
    (s.withRestOf u).takeEvent e = (s.takeEvent e).withRestOf u := by
  cases e with
  | cmd w => exact presentWord_withRestOf w s u
  | accept n => exact acceptHeld_withRestOf n s u
  | txAnswer a => exact takeAnswer_withRestOf a s u
  | rx bytes => cases he
  | reset k => cases he

/-! ### The consumer (41 R108) -/

/-- `s` with the observer binding set to `b`. -/
def State.withObserver (s : State) (b : Bool) : State := { s with params := { s.params with observer := b } }

/-- Setting the binding before or after an operation of the command unit is the same, which leaves the parameters. -/
theorem UnitFrame.withRestOf_withObserver {s t : State} (h : UnitFrame s t) (b : Bool) :
    t.withRestOf (s.withObserver b) = t.withObserver b := by
  unfold State.withRestOf State.withObserver
  rw [h.rxCnt, h.rxBuf, h.statusLog, h.params, h.events, h.draws]

/-- The decoder does not look at the binding. -/
theorem receive_withObserver (c : Byte) (s : State) (b : Bool) :
    (s.withObserver b).receive c = (s.receive c).withObserver b := by
  by_cases h : s.rxCnt = 7
  · rw [receive_completing c s h, receive_completing c (s.withObserver b) h]
    rfl
  · rw [receive_accumulating c s h, receive_accumulating c (s.withObserver b) h]
    rfl

theorem takeReset_withObserver (k : Fin 9) (s : State) (b : Bool) :
    (s.withObserver b).takeReset k = (s.takeReset k).withObserver b := by
  unfold State.takeReset
  by_cases hp : s.cuPhase = .idle
  · rw [abandon_idle k s hp, abandon_idle k (s.withObserver b) hp]
    rfl
  · rw [abandon_busy k s hp, abandon_busy k (s.withObserver b) hp]
    rfl

theorem takeEvent_withObserver (e : Event) (s : State) (b : Bool) :
    (s.withObserver b).takeEvent e = (s.takeEvent e).withObserver b := by
  cases e with
  | cmd | accept | txAnswer =>
    exact (takeEvent_withRestOf rfl s (s.withObserver b)).trans
      ((unitFrame_takeEvent rfl s).withRestOf_withObserver b)
  | rx bytes =>
    cases bytes with
    | nil => rfl
    | cons c rest => exact receive_withObserver c { s with events := pushRx rest s.events } b
  | reset k => exact takeReset_withObserver k s b

theorem step_withObserver {s t : State} (b : Bool) (h : step s = .next t) :
    step (s.withObserver b) = .next (t.withObserver b) := by
  cases hev : s.events with
  | nil =>
    rw [quietWithoutEvents s hev] at h
    obtain rfl := Host.Outcome.next.inj h
    exact quietWithoutEvents (s.withObserver b) hev
  | cons e es =>
    rw [step_event s e es hev] at h
    obtain rfl := Host.Outcome.next.inj h
    exact (step_event (s.withObserver b) e es hev).trans
      (congrArg _ (takeEvent_withObserver e { s with events := es } b))

/-! ### Bytes between the command unit's events (10 R33, 20 R52) -/

/-- A delivery changes only the decoder's elements and STATUS. -/
theorem receive_eq_withRestOf (b : Byte) (s : State) : s.receive b = s.withRestOf (s.receive b) := by
  rw [receive_frame b s]
  rfl

/-- A delivery reads only what an operation of the command unit leaves unchanged. -/
theorem UnitFrame.receive_eq {s t : State} (h : UnitFrame s t) (b : Byte) :
    t.receive b = t.withRestOf (s.receive b) := by
  by_cases hcnt : s.rxCnt = 7
  · have hframe : t.completedFrame b = s.completedFrame b := by rw [State.completedFrame, State.completedFrame, h.rxBuf]
    rw [receive_completing b t (h.rxCnt.trans hcnt), receive_completing b s hcnt, hframe]
    simp only [State.withRestOf, h.rxBuf, h.statusLog, h.params, h.events, h.draws]
  · rw [receive_accumulating b t (h.rxCnt ▸ hcnt), receive_accumulating b s hcnt]
    simp only [State.withRestOf, State.accumulate, h.rxCnt, h.rxBuf, h.statusLog, h.params, h.events, h.draws]

theorem takeEvent_receive_comm {e : Event} (he : commandEvent e = true) (b : Byte) (s : State) :
    (s.receive b).takeEvent e = (s.takeEvent e).receive b := by
  rw [(unitFrame_takeEvent he s).receive_eq b, ← takeEvent_withRestOf he, ← receive_eq_withRestOf]

/-! ### Scripts of both units' events (20 R52) -/

/-- An event of the command unit, or a single inbound byte. -/
def OneStepEvent (e : Event) : Prop := commandEvent e = true ∨ ∃ b, e = .rx [b]

theorem UnitFrame.withRestOf_with_events {s t : State} (h : UnitFrame s t) (es : List Event) :
    t.withRestOf { s with events := es } = { t with events := es } := by
  unfold State.withRestOf
  rw [h.rxCnt, h.rxBuf, h.statusLog, h.params, h.draws]

/-- Such an event neither reads nor changes the script. -/
theorem takeEvent_with_events {e : Event} (he : OneStepEvent e) (es : List Event) (s : State) :
    ({ s with events := es } : State).takeEvent e = { s.takeEvent e with events := es } := by
  obtain he | ⟨b, rfl⟩ := he
  · exact (takeEvent_withRestOf he s { s with events := es }).trans
      ((unitFrame_takeEvent he s).withRestOf_with_events es)
  · exact receive_with_events b es s

/-- What the events of `es` do one after the other. -/
def State.takeEvents (es : List Event) (s : State) : State := es.foldl (fun t e => t.takeEvent e) s

theorem takeEvents_cons (e : Event) (es : List Event) (s : State) :
    s.takeEvents (e :: es) = (s.takeEvent e).takeEvents es := rfl

theorem takeEvents_append (es es' : List Event) (s : State) :
    s.takeEvents (es ++ es') = (s.takeEvents es).takeEvents es' := List.foldl_append

/-- A script of such events is one step an event. -/
theorem stepN_takeEvents (es : List Event) (hes : ∀ e ∈ es, OneStepEvent e) (s : State) :
    stepN es.length { s with events := es } = .next { s.takeEvents es with events := [] } := by
  induction es generalizing s with
  | nil => rfl
  | cons e es ih =>
    obtain ⟨he, hes⟩ := List.forall_mem_cons.mp hes
    have hstep : step { s with events := e :: es } = .next { s.takeEvent e with events := es } :=
      (step_event _ e es rfl).trans (congrArg _ (takeEvent_with_events he es s))
    rw [List.length_cons, stepN_succ _ _ _ hstep, takeEvents_cons]
    exact ih hes (s.takeEvent e)

/-- A byte can be delivered after the command unit's events instead of before them. -/
theorem takeEvents_receive_comm {es : List Event} (hes : ∀ e ∈ es, commandEvent e = true) (b : Byte) (s : State) :
    (s.receive b).takeEvents es = (s.takeEvents es).receive b := by
  induction es generalizing s with
  | nil => rfl
  | cons e es ih =>
    obtain ⟨he, hes⟩ := List.forall_mem_cons.mp hes
    rw [takeEvents_cons, takeEvents_cons, takeEvent_receive_comm he, ih hes]

/-- The command unit's events can all come first. -/
theorem takeEvents_commands_first (es : List Event) (hes : ∀ e ∈ es, OneStepEvent e) (s : State) :
    s.takeEvents (es.filter commandEvent ++ es.filter fun e => !commandEvent e) = s.takeEvents es := by
  induction es generalizing s with
  | nil => rfl
  | cons e es ih =>
    obtain ⟨he, hes⟩ := List.forall_mem_cons.mp hes
    rw [takeEvents_cons, ← ih hes (s.takeEvent e)]
    obtain he | ⟨b, rfl⟩ := he
    · rw [List.filter_cons_of_pos he, List.filter_cons_of_neg (by simp [he])]
      rfl
    · have hbyte (t : State) : t.takeEvent (.rx [b]) = t.receive b := rfl
      have hcommands : ∀ e ∈ es.filter commandEvent, commandEvent e = true := fun e he => (List.mem_filter.mp he).2
      rw [List.filter_cons_of_neg (by simp [commandEvent]), List.filter_cons_of_pos (by rfl), takeEvents_append,
        takeEvents_append, takeEvents_cons, hbyte, hbyte, takeEvents_receive_comm hcommands]

end Sys2Proof.Machine

namespace Sys2Proof

open Sys2Proof.Machine

/-- Settles O56: the event is the same with either binding, and what it does commutes with setting the binding. -/
theorem observerChangesNothing : Obligations.ObserverChangesNothing := by
  exact ⟨fun s t b h => step_withObserver b h, fun s hbound => if_pos hbound, fun s hnone => if_neg (by simp [hnone])⟩

/-- Settles O57: both scripts are one step an event, and the bytes can be moved behind the command unit's events. -/
theorem interleavingsAgree : Obligations.InterleavingsAgree := by
  intro s es hes
  have hperm := List.filter_append_perm commandEvent es
  rw [stepN_takeEvents es hes s, ← hperm.length_eq,
    stepN_takeEvents _ (fun e he => hes e (hperm.mem_iff.mp he)) s, takeEvents_commands_first es hes s]

end Sys2Proof
end

section
/-! Words and frames written out from the spec, and the two checksum rules against each other (30 R62 to R65, R70, R76;
40 R88). -/

namespace Sys2Proof

open Sys2Proof.Machine

/-! ### The outbound rows (40 R88) -/

theorem decodeTx_eq_none_iff (f : Frame) :
    decodeTx f = none ↔
      f ∉ [rowFrameQuery, rowFrameSetOpen0, rowFrameSetOpen1, rowFrameSetOpen2, rowFrameSetOpen3,
        rowFrameSetClosed] := by
  unfold decodeTx
  split_ifs <;> simp [*]

/-! ### The words of the assembly lines (30 R76) -/

/-- An index in bits 15:8 with the fields below it added is the command word of those fields. -/
theorem shiftedIndex_or_eq_cmdWord (idx : Byte) (rsv : BitVec 5) (d : Bool) (op : BitVec 2) :
    idx.setWidth 16 <<< 8 ||| (rsv ++ BitVec.ofBool d ++ op).setWidth 16 = cmdWord idx rsv d op := by
  apply BitVec.eq_of_getLsbD_eq
  intro i hi
  simp only [cmdWord, BitVec.getLsbD_or, BitVec.getLsbD_shiftLeft, BitVec.getLsbD_setWidth, BitVec.getLsbD_append]
  interval_cases i <;> simp

theorem setWord_eq (idx : Byte) (d : Desired) : (Line.set idx d).word? = some (cmdWord idx 0 d.toBit 1) := by
  cases d with
  | openReq => exact congrArg some (shiftedIndex_or_eq_cmdWord idx 0 true 1)
  | closedReq => exact congrArg some (shiftedIndex_or_eq_cmdWord idx 0 false 1)

theorem pulseWord_eq (idx : Byte) : (Line.pulse idx).word? = some (cmdWord idx 0 false 2) :=
  congrArg some (shiftedIndex_or_eq_cmdWord idx 0 false 2)

/-! ### The two checksum rules (30 R62, R63) -/

/-- A signed sum that fits in a byte is the value of its eight bits. -/
theorem toInt_chk_of_range (f : Frame) (h : -128 ≤ signedSum f ∧ signedSum f ≤ 127) : (chk f).toInt = signedSum f := by
  rw [chk_eq_ofInt_signedSum, BitVec.toInt_ofInt]
  exact Int.bmod_eq_of_le (by omega) (by omega)

/-- The signed check is the other one together with the sum's range. -/
theorem chkOk_signedWide_iff_range (f : Frame) :
    chkOk .signedWide f = true ↔ chkOk .mod256 f = true ∧ -128 ≤ signedSum f ∧ signedSum f ≤ 127 := by
  constructor
  · intro h
    refine ⟨chkOk_mod256_of_signedWide f h, ?_⟩
    rw [(chkOk_signedWide_iff f).mp h]
    have hle := f.b7.le_toInt
    have hlt := f.b7.toInt_lt
    omega
  · rintro ⟨hmod, hrange⟩
    rw [chkOk_signedWide_iff, ← toInt_chk_of_range f hrange, (chkOk_mod256_iff f).mp hmod]

/-! ### The obligations -/

/-- Settles O3: the decoder evaluated on each word. -/
theorem sampleWordsDecode : Obligations.SampleWordsDecode := by
  unfold Obligations.SampleWordsDecode
  decide

/-- Settles O5: the rows of the opcode table are the six frames, byte by byte. -/
theorem onlySixOutboundFrames : Obligations.OnlySixOutboundFrames := decodeTx_eq_none_iff

/-- Settles O6: the query frame evaluated, and the set frame for each of the eight operands. -/
theorem outboundFrameBytes : Obligations.OutboundFrameBytes := by
  refine ⟨by decide, by decide, fun idx d => ?_⟩
  cases d with
  | openReq => revert idx; decide
  | closedReq => revert idx; decide

/-- Settles O8: each line's word is the command word of its operands with the ignored fields 0. -/
theorem assemblyWordsDecode : Obligations.AssemblyWordsDecode := by
  refine ⟨⟨_, rfl, by decide⟩, fun idx d => ⟨_, setWord_eq idx d, ?_⟩,
    fun idx => ⟨_, pulseWord_eq idx, decodeCmd_pulse idx 0 false⟩, fun w => rfl⟩
  rw [decodeCmd_set, desired_ofBit_toBit]

/-- Settles O52: the signed check is the MOD256 check with the signed sum in a byte's range. -/
theorem checksumRulesDifferExactly : Obligations.ChecksumRulesDifferExactly := by
  intro f
  have hsum : f.b0.toInt + f.b1.toInt + f.b2.toInt + f.b3.toInt + f.b4.toInt + f.b5.toInt + f.b6.toInt = signedSum f :=
    rfl
  rw [hsum, ← chkOk_mod256_iff, Ne, Bool.eq_iff_iff, chkOk_signedWide_iff_range]
  by_cases hmod : chkOk .mod256 f = true
  · simp only [hmod, true_and, true_iff]
    omega
  · simp [hmod]

end Sys2Proof
end
